-- ==== Sys2Proof/Word.lean ====
section
/-!
DEFINITION. The bit vectors of the DtoA block, at the widths of the parameter table of 00_scope.md section 5.
-/

namespace Sys2Proof

/-- One bit of a control field or of the chip-select pin. -/
abbrev Bit := BitVec 1

/-- `W_NIBBLE` bits: one half of a display-data cell. -/
abbrev Nibble := BitVec 4

/-- `W_BYTE` bits: the data register and every display-data cell. -/
abbrev Byte := BitVec 8

/-- `W_SAMPLE` bits: "a 12-bit unsigned magnitude" (90_conflicts.md C1: twelve, not ten). -/
abbrev Sample := BitVec 12

/-- `W_FRAME` bits: the transfer frame (10_state.md R21). -/
abbrev Frame := BitVec 16

/-- `W_PATTERN` bits: a segment pattern of four nibbles. -/
abbrev Pattern := BitVec 16

/-- A command word `CW` (30_encoding.md R81). -/
abbrev CommandWord := BitVec 20

end Sys2Proof
end

