-- ==== Sys2Proof/Config.lean ====
section
/-!
DEFINITION. What an implementation fixes (00_scope.md section 5), what the environment draws (10_state.md
R36, 40_dac.md R111, R116) and what a register without a reset value holds (70_reset_and_hazards.md R180).
An `opaque` here has no body: no proof can see its value, so every claim holds whatever it is.
-/

namespace Sys2Proof

/-- The control fields whose width the spec leaves open (`W_CLK_SEL` and the `W_<field>` of 00_scope.md). -/
inductive OpenField where
  | clkSel | wave | irq | xclk | bias | duty | segcnt | presc | clkdiv | drive
  deriving DecidableEq, Repr

/-- One less than the width of a control field; the spec says only that the width is a positive integer. -/
opaque Config.widthLessOne : OpenField → Nat

/-- The width of a control field: open and positive. -/
def Config.width (f : OpenField) : Nat := Config.widthLessOne f + 1

/-- The serial-bus control register `SBC` (10_state.md R37). -/
structure Sbc where
  /-- `SBC.MSTR_EN`: the block is bus master. -/
  mstrEn : Bit
  /-- `SBC.BUS_EN`: the serial bus peripheral is on. -/
  busEn : Bit
  /-- `SBC.CLK_SEL`: clock-rate select. -/
  clkSel : BitVec (Config.width .clkSel)
  /-- `SBC.DBL_SPD`: double-speed select. -/
  dblSpd : Bit
  deriving DecidableEq, Repr, Inhabited

/-- The LCD controller's control fields `LCR` (10_state.md R41: the union of the two lists,
90_conflicts.md C4). -/
structure Lcr where
  /-- `LCR.EN`: controller enable. -/
  en : Bit
  /-- `LCR.WAVE`: waveform select. -/
  wave : BitVec (Config.width .wave)
  /-- `LCR.IRQ`: interrupt bits, of which the spec says nothing more. -/
  irq : BitVec (Config.width .irq)
  /-- `LCR.XCLK`: external-clock select. -/
  xclk : BitVec (Config.width .xclk)
  /-- `LCR.BIAS`: bias select. -/
  bias : BitVec (Config.width .bias)
  /-- `LCR.DUTY`: duty cycle. -/
  duty : BitVec (Config.width .duty)
  /-- `LCR.SEGCNT`: segment count. -/
  segcnt : BitVec (Config.width .segcnt)
  /-- `LCR.PRESC`: frame-rate prescaler. -/
  presc : BitVec (Config.width .presc)
  /-- `LCR.CLKDIV`: clock divider. -/
  clkdiv : BitVec (Config.width .clkdiv)
  /-- `LCR.DRIVE`: drive-voltage select. -/
  drive : BitVec (Config.width .drive)
  deriving DecidableEq, Repr, Inhabited

/-- The record `LCD_INIT`: what LCD.INIT writes to every `LCR` field but `EN` (41_lcd.md R131). -/
structure LcdInitValues where
  wave : BitVec (Config.width .wave)
  irq : BitVec (Config.width .irq)
  xclk : BitVec (Config.width .xclk)
  bias : BitVec (Config.width .bias)
  duty : BitVec (Config.width .duty)
  segcnt : BitVec (Config.width .segcnt)
  presc : BitVec (Config.width .presc)
  clkdiv : BitVec (Config.width .clkdiv)
  drive : BitVec (Config.width .drive)
  deriving DecidableEq, Repr, Inhabited

/-- What LCD.WRITE reports when both its operands are invalid: the four values the parameter
`BOTH_INVALID_REPORT` may have (41_lcd.md R140). -/
inductive BothInvalidReport where
  | charOnly | posOnly | charThenPos | posThenChar
  deriving DecidableEq, Repr, Inhabited

/-- The order of a byte's bits on the serial line (20_memory.md R64). -/
inductive BitOrder where
  | msbFirst | lsbFirst
  deriving DecidableEq, Repr, Inhabited

/-! ## Open parameters -/

/-- `SEG_2`: the pattern of `'2'`, in no document (41_lcd.md R133, 92_eei_decisions.md D6). -/
opaque Config.seg2 : Pattern
/-- `SEG_3`. -/
opaque Config.seg3 : Pattern
/-- `SEG_4`. -/
opaque Config.seg4 : Pattern
/-- `SEG_5`. -/
opaque Config.seg5 : Pattern
/-- `SEG_6`. -/
opaque Config.seg6 : Pattern
/-- `SEG_7`. -/
opaque Config.seg7 : Pattern
/-- `SEG_8`. -/
opaque Config.seg8 : Pattern

/-- `DAC_CLK_SEL_INIT` (40_dac.md R101). -/
opaque Config.dacClkSelInit : BitVec (Config.width .clkSel)

/-- `DAC_DBL_SPD_INIT` (40_dac.md R101). -/
opaque Config.dacDblSpdInit : Bit

/-- `LCD_INIT` (41_lcd.md R131). -/
opaque Config.lcdInit : LcdInitValues

/-- `BOTH_INVALID_REPORT` (41_lcd.md R140). -/
opaque Config.bothInvalidReport : BothInvalidReport

/-- `BIT_ORDER` at the default the spec gives it; no rule reads it (20_memory.md R64). -/
def Config.bitOrder : BitOrder := .msbFirst

/-! ## Draws of the environment

The `n`-th draw the environment takes where the state does not say what it is to draw. -/

/-- `draw w : bit`, the collision flag at an inspection (10_state.md R36). -/
opaque Config.wcolDraw : Nat → Bool

/-- `draw r : 8 bits`, what `DATA` holds after a transfer (40_dac.md R111). -/
opaque Config.rxDraw : Nat → Byte

/-- Whether the byte engine's completion is scheduled now or at some later point (40_dac.md R116). -/
opaque Config.doneDraw : Nat → Bool

/-! ## Registers without a reset value (70_reset_and_hazards.md R181, R182) -/

/-- `FRAME` at reset. -/
opaque Config.resetFrame : Frame
/-- `CS_N` at reset. -/
opaque Config.resetCsN : Bit
/-- The four `SBC` fields at reset. -/
opaque Config.resetSbc : Sbc
/-- `DATA` at reset. -/
opaque Config.resetData : Byte
/-- `SHREG` at reset. -/
opaque Config.resetShreg : Byte
/-- The ten `LCR` fields at reset. -/
opaque Config.resetLcr : Lcr
/-- The twelve cells `DD[k][p]` at reset, each at its linear index `3k + p`. -/
opaque Config.resetCell : Nat → Byte

end Sys2Proof
end

