-- ==== Sys2Proof/Syntax.lean ====
section
/-!
DEFINITION. The six operations of the block with their operands (00_scope.md R3, 30_encoding.md R80).
-/

namespace Sys2Proof

/-- One command: an operation with its operands. A sample has the 12 bits of its field, so none above 4095
exists (30_encoding.md R83). A character is its 8-bit code (R84). A position is an integer of any range, as
R85 allows: the command port presents 0 to 255, and the validity rule stands over all integers. -/
inductive Instr where
  /-- `DAC.INIT` (40_dac.md R101, R102). -/
  | dacInit
  /-- `DAC.WRITE value` (40_dac.md R103). -/
  | dacWrite (value : Sample)
  /-- `LCD.INIT` (41_lcd.md R131). -/
  | lcdInit
  /-- `LCD.C2S c` (41_lcd.md R132). -/
  | lcdC2s (c : Byte)
  /-- `LCD.P2R pos` (41_lcd.md R135). -/
  | lcdP2r (pos : Int)
  /-- `LCD.WRITE c, pos` (41_lcd.md R138). -/
  | lcdWrite (c : Byte) (pos : Int)
  deriving DecidableEq, Repr

end Sys2Proof
end

