-- ==== Sys2Proof/WellFormed.lean ====
section
/-!
DEFINITION. Which commands the 20-bit command port can present.
-/

namespace Sys2Proof

/-- A position the 8-bit field `CW[7:0]` holds (30_encoding.md R85). A well-formed position need not be a
valid one: 0, 1 and 8 to 255 are well formed and end in `InvalidPosition` (R90). -/
abbrev posEncodable (pos : Int) : Prop := 0 ≤ pos ∧ pos ≤ 255

/-- The command has a command word. Only a position can lack one; every sample and every character code has
its field's width already. -/
def Instr.WellFormed : Instr → Bool
  | .dacInit => true
  | .dacWrite _ => true
  | .lcdInit => true
  | .lcdC2s _ => true
  | .lcdP2r pos => decide (posEncodable pos)
  | .lcdWrite _ pos => decide (posEncodable pos)

end Sys2Proof
end

