-- ==== Sys2Proof/Decode.lean ====
section
/-!
DEFINITION. The command word: decoder, encoder and the table's numbering of its bits (30_encoding.md).
-/

namespace Sys2Proof

/-- Why a 20-bit word is reserved, one name per clause of 30_encoding.md R88. -/
inductive Reserved where
  /-- `OP` is 0x0, 0x3 or 0x8 to 0xF. -/
  | opcode
  /-- `OP` is 0x1 or 0x4 and `ARG` is not 0. -/
  | argumentNotZero
  /-- `OP` is 0x2 and `CW[15:12]` is not 0. -/
  | aboveSampleNotZero
  /-- `OP` is 0x5 and `CW[7:0]` is not 0. -/
  | belowCharacterNotZero
  /-- `OP` is 0x6 and `CW[15:8]` is not 0. -/
  | abovePositionNotZero
  deriving DecidableEq, Repr

/-- `OP = CW[19:16]` (R81). -/
def opField (w : CommandWord) : BitVec 4 := w.extractLsb' 16 4

/-- `ARG = CW[15:0]` (R81). -/
def argField (w : CommandWord) : BitVec 16 := w.extractLsb' 0 16

/-- `CW[15:12]`, zero in format V (R82). -/
def aboveSampleField (w : CommandWord) : BitVec 4 := w.extractLsb' 12 4

/-- `value = CW[11:0]` (R82, R83). -/
def valueField (w : CommandWord) : Sample := w.extractLsb' 0 12

/-- `c = CW[15:8]` (R82, R84). -/
def charField (w : CommandWord) : Byte := w.extractLsb' 8 8

/-- `pos = CW[7:0]` (R82, R85). -/
def posField (w : CommandWord) : Byte := w.extractLsb' 0 8

/-- The integer a position field stands for: unsigned, neither extended nor scaled (R85, R86). -/
def posOfField (b : Byte) : Int := Int.ofNat b.toNat

/-- The command a 20-bit word stands for (R87), or why it is reserved (R88). Total; no reserved word falls
through to a neighbour. -/
def decode (w : CommandWord) : Except Reserved Instr :=
  if opField w = 0x1 then
    if argField w = 0 then .ok .dacInit else .error .argumentNotZero
  else if opField w = 0x2 then
    if aboveSampleField w = 0 then .ok (.dacWrite (valueField w)) else .error .aboveSampleNotZero
  else if opField w = 0x4 then
    if argField w = 0 then .ok .lcdInit else .error .argumentNotZero
  else if opField w = 0x5 then
    if posField w = 0 then .ok (.lcdC2s (charField w)) else .error .belowCharacterNotZero
  else if opField w = 0x6 then
    if charField w = 0 then .ok (.lcdP2r (posOfField (posField w))) else .error .abovePositionNotZero
  else if opField w = 0x7 then
    .ok (.lcdWrite (charField w) (posOfField (posField w)))
  else .error .opcode

/-- The row of R87 that a command's words match, as (mask, match). -/
def tableRow : Instr → CommandWord × CommandWord
  | .dacInit => (0xFFFFF, 0x10000)
  | .dacWrite _ => (0xFF000, 0x20000)
  | .lcdInit => (0xFFFFF, 0x40000)
  | .lcdC2s _ => (0xF00FF, 0x50000)
  | .lcdP2r _ => (0xFFF00, 0x60000)
  | .lcdWrite _ _ => (0xF0000, 0x70000)

/-- The six rows of R87, as (mask, match): "a word `w` is the instruction exactly when `w & mask = match`". -/
def commandTable : List (CommandWord × CommandWord) :=
  [(0xFFFFF, 0x10000), (0xFF000, 0x20000), (0xFFFFF, 0x40000),
   (0xF00FF, 0x50000), (0xFFF00, 0x60000), (0xF0000, 0x70000)]

/-- The word matches a row of R87. -/
def matchesTable (w : CommandWord) : Bool := commandTable.any fun row => w &&& row.1 == row.2

/-- The 8-bit field of a position (R85); of a position out of the port's range, its low eight bits, which no
well-formed command has. -/
def fieldOfPos (pos : Int) : Byte := BitVec.ofInt 8 pos

/-- The command word of a well-formed command, as its rule gives it: `0x20000 | value` (40_dac.md R103),
`0x50000 | (c << 8)` (41_lcd.md R132), `0x60000 | pos` (R135), `0x70000 | (c << 8) | pos` (R138). -/
def encode : Instr → CommandWord
  | .dacInit => 0x10000
  | .dacWrite value => 0x20000 ||| value.setWidth 20
  | .lcdInit => 0x40000
  | .lcdC2s c => 0x50000 ||| (c.setWidth 20 <<< 8)
  | .lcdP2r pos => 0x60000 ||| (fieldOfPos pos).setWidth 20
  | .lcdWrite c pos => 0x70000 ||| (c.setWidth 20 <<< 8) ||| (fieldOfPos pos).setWidth 20

/-- The word a number stands for at the 20-bit command port, the number's bits taken below `nbits` and
numbered as the opcode table numbers them (bit 0 the least significant). A number that needs more than
20 bits cannot be presented at all; it is given the all-zero word, which R88 reserves, so that it is refused
and never cut down to some command. -/
def wordOfNumber (nbits w : Nat) : CommandWord :=
  if w % 2 ^ nbits < 2 ^ 20 then BitVec.ofNat 20 (w % 2 ^ nbits) else 0#20

/-- The command the decoder reads from an instruction whose bits are `w` (a command has one word and no byte
order, so laying the word out is `wordOfNumber`). -/
def decodeTableWord (nbits w : Nat) : Option Instr :=
  match decode (wordOfNumber nbits w) with
  | .ok i => some i
  | .error _ => none

end Sys2Proof
end

