-- ==== Sys2Proof/Machine/State.lean ====
section
/-!
DEFINITION. Everything the spec gives the block to hold (10_state.md), the events it emits, the reasons a step
can stop, and the state after reset (70_reset_and_hazards.md R181 to R183).
-/

namespace Sys2Proof.Machine

/-! ## Names -/

/-- The six states of the handshake sequencer (10_state.md R29). Codes 6 and 7 of its 3-bit encoding are never
taken (R30), so no constructor stands for them. -/
inductive Hsq where
  | idle | selected | sendingMsb | msbDone | sendingLsb | lsbDone
  deriving DecidableEq, Repr

/-- The six operations, by name alone, as a response names them. -/
inductive Op where
  | dacInit | dacWrite | lcdInit | lcdC2s | lcdP2r | lcdWrite
  deriving DecidableEq, Repr

/-- The codes the error sink accepts (60_exceptions.md R161). -/
inductive ErrorCode where
  | invalidCharacter | invalidPosition
  deriving DecidableEq, Repr

/-- The codes the diagnostic sink accepts (60_exceptions.md R161, R174). -/
inductive DiagCode where
  | collision
  deriving DecidableEq, Repr

/-- The two points at which the sequencer inspects the collision flag (10_state.md R35): 1 in `Selected`,
2 in `MSBDone`. -/
inductive InspectionPoint where
  | first | second
  deriving DecidableEq, Repr

/-- Which half of a cell a position owns (00_scope.md section 7). -/
inductive NibbleSide where
  | low | high
  deriving DecidableEq, Repr

/-- What an operation returns (10_state.md R46). -/
inductive Result where
  | done
  | pattern (s : Pattern)
  | reg (plane : Fin 3) (side : NibbleSide)
  | error (code : ErrorCode)
  deriving DecidableEq, Repr

/-- An event of the output trace (10_state.md R46). -/
inductive Event where
  /-- `EvCs(b)`: the chip-select pin was driven to `b`. -/
  | cs (b : Bit)
  /-- `EvTx(byte)`: the byte engine finished sending `byte`. -/
  | tx (byte : Byte)
  /-- `EvDiag(COLLISION, i)`: the sequencer saw a collision at inspection point `i`. -/
  | diag (code : DiagCode) (point : InspectionPoint)
  /-- `EvErr(code)`: LCD.WRITE forwarded an error. -/
  | err (code : ErrorCode)
  /-- `EvResp(op, result)`: the operation returned. -/
  | resp (op : Op) (result : Result)
  deriving DecidableEq, Repr

/-! ## State -/

/-- How many display-data cells there are (`N_CELLS`, 20_memory.md R62). -/
def cellCount : Nat := 12

/-- The display-data space: (linear index, cell) pairs (20_memory.md R62). The cells are registers (10_state.md
R20), so all twelve are listed, at rising indices (`Memory.wf`). -/
abbrev Memory := List Host.Cell

/-- The state of DACX (10_state.md section 1). `SBS.WCOL` is not among it: "A model keeps no `WCOL`
register" (R36). -/
structure Dacx where
  /-- `HSQ`, the sequencer's state, in place of a program counter. -/
  hsq : Hsq
  /-- `FRAME`. -/
  frame : Frame
  /-- `CS_N`, the active-low chip-select pin. -/
  csN : Bit
  /-- `SBC`, the serial control register. -/
  sbc : Sbc
  /-- `SBS.XFER_DONE`, the transfer-complete flag. -/
  xferDone : Bool
  /-- `DATA`, the data register. -/
  data : Byte
  /-- `SHREG`, the byte in flight. -/
  shreg : Byte
  /-- `SHIFTING`: a transfer is in flight. -/
  shifting : Bool
  /-- DAC.INIT has done its configuration step and has not returned: its inner transaction is still to come
  (`hsq` is `idle`) or running. It says whose response 40_dac.md R109 emits. The model's own field
  (DEDUCED from R102, R104 and R109; log entry 11). -/
  initRunning : Bool
  /-- `DAC_INITED`, ghost. -/
  dacInited : Bool
  deriving DecidableEq, Repr

/-- The state of LCDX (10_state.md section 1). -/
structure Lcdx where
  /-- `DD[k][p]`, the twelve cells. -/
  cells : Memory
  /-- `LCR`, the controller's control fields. -/
  lcr : Lcr
  /-- `LCD_INITED`, ghost. -/
  lcdInited : Bool
  deriving DecidableEq, Repr

/-- The environment's next draws, as far as this state says them; past the end of a list the draw is the
constant of `Config` at `drawn`. The model's own (DESIGN CHOICE; log entry 7): a statement holds for every
value of these fields. -/
structure Env where
  /-- Values of the collision flag at the next inspections. -/
  wcol : List Bool
  /-- Values `DATA` is left with by the next completions. -/
  rx : List Byte
  /-- At the next steps with a transfer in flight: does it complete now? -/
  done : List Bool
  /-- How many draws were taken from `Config`. -/
  drawn : Nat
  deriving DecidableEq, Repr

/-- The whole block, with the host that gives it commands and the environment that draws. The two sub-blocks
share nothing (00_scope.md R2), so each has a field of its own. -/
structure State where
  /-- DACX. -/
  dacx : Dacx
  /-- LCDX. -/
  lcdx : Lcdx
  /-- `REFUSED`, ghost (10_state.md R45). -/
  refused : Bool
  /-- The output trace, oldest event first (10_state.md R46). -/
  trace : List Event
  /-- The command port: the word the host presents now, if it presents one (20_memory.md R60). -/
  port : Option CommandWord
  /-- The words the host has still to give, each when the one before has returned
  (70_reset_and_hazards.md R197). -/
  script : List CommandWord
  /-- The environment. -/
  env : Env
  deriving DecidableEq, Repr

/-! ## How a step can stop -/

/-- A fault: the model reaches a point the spec says does not exist. -/
inductive Fault where
  /-- Raised by `memRead` and `memWrite` for a linear index of 12 or above, which "do not exist"
  (20_memory.md R62). No operation can form one (R66), so no step raises it. Safe. -/
  | noSuchCell (index : Nat)
  deriving DecidableEq, Repr

/-- A refusal: the spec's `refuse`, "give no meaning" (00_scope.md section 6). Each one but the first stands
where a rule of the spec says `refuse`. All are safe: the model stops where the chip would go on. -/
inductive Refusal where
  /-- An arm of `exec` that has no meaning yet; no arm has it now. Safe. -/
  | notModelled (mnemonic : String)
  /-- Raised by the command port for a reserved word (30_encoding.md R89). Safe. -/
  | reservedWord (why : Reserved)
  /-- Raised by the command port for a command presented while another is outstanding
  (70_reset_and_hazards.md R190). Safe. -/
  | commandOutstanding
  /-- Raised by DAC.INIT and DAC.WRITE while a DAC operation is outstanding (40_dac.md R118). Safe. -/
  | dacBusy
  /-- Raised by DAC.WRITE before any DAC.INIT (40_dac.md R118, 70_reset_and_hazards.md R186). Safe. -/
  | dacNotInitialised
  /-- Raised by LCD.WRITE before any LCD.INIT (41_lcd.md R145, 70_reset_and_hazards.md R186). Safe. -/
  | lcdNotInitialised
  /-- Raised by a load of `DATA` while `SHIFTING = 1` (40_dac.md R114). Safe. -/
  | loadInFlight
  /-- Raised by every step of a run that a refusal has marked (70_reset_and_hazards.md R197: "A run with
  `REFUSED = 1` has no meaning"). Safe. -/
  | runRefused
  deriving DecidableEq, Repr

/-! ## Reset -/

/-- Reset of DACX (70_reset_and_hazards.md R181). The registers that rule calls unspecified hold free values
(DESIGN CHOICE; log entry 1). -/
def Dacx.reset : Dacx where
  hsq := .idle
  frame := Config.resetFrame
  csN := Config.resetCsN
  sbc := Config.resetSbc
  xferDone := false
  data := Config.resetData
  shreg := Config.resetShreg
  shifting := false
  initRunning := false
  dacInited := false

/-- The twelve cells at reset, each at a free value (DESIGN CHOICE; log entry 3). -/
def Memory.reset : Memory := (List.range cellCount).map fun a => (a, Config.resetCell a)

/-- Reset of LCDX (70_reset_and_hazards.md R182): the cells and the control fields, which that rule calls
unspecified, hold free values (DESIGN CHOICE; log entries 1 and 3). -/
def Lcdx.reset : Lcdx where
  cells := Memory.reset
  lcr := Config.resetLcr
  lcdInited := false

/-- The environment at reset says nothing of its draws in advance (DESIGN CHOICE; log entry 7). -/
def Env.reset : Env where
  wcol := []
  rx := []
  done := []
  drawn := 0

/-- The state in which the model starts, before any command (70_reset_and_hazards.md R180 to R183). -/
def State.reset : State where
  dacx := Dacx.reset
  lcdx := Lcdx.reset
  refused := false
  trace := []
  port := none
  script := []
  env := Env.reset

end Sys2Proof.Machine
end

