-- ==== Sys2Proof/Machine/Flags.lean ====
section
/-!
DEFINITION. The status register `SBS` (10_state.md R33 to R36, R38) and the environment's draws.
-/

namespace Sys2Proof.Machine

/-- Sets or clears `SBS.XFER_DONE`: a completion sets it, a load clears it (10_state.md R34). -/
def State.setXferDone (s : State) (b : Bool) : State :=
  { s with dacx := { s.dacx with xferDone := b } }

/-- Draws the collision flag's value: `SBS.WCOL` is no register but "a draw: `draw w : bit`, independent at
each point, under no law" (10_state.md R36). -/
def Env.drawWcol (e : Env) : Bool × Env :=
  match e.wcol with
  | w :: rest => (w, { e with wcol := rest })
  | [] => (Config.wcolDraw e.drawn, { e with drawn := e.drawn + 1 })

/-- Draws what `DATA` holds after a transfer (40_dac.md R111, `draw r : 8 bits`). -/
def Env.drawRx (e : Env) : Byte × Env :=
  match e.rx with
  | r :: rest => (r, { e with rx := rest })
  | [] => (Config.rxDraw e.drawn, { e with drawn := e.drawn + 1 })

/-- Draws whether the byte engine's completion comes now: "the completion may be scheduled at any later
point", or never (40_dac.md R116). -/
def Env.drawDone (e : Env) : Bool × Env :=
  match e.done with
  | d :: rest => (d, { e with done := rest })
  | [] => (Config.doneDraw e.drawn, { e with drawn := e.drawn + 1 })

end Sys2Proof.Machine
end

