-- ==== Sys2Proof/Machine/Operands.lean ====
section
/-!
DEFINITION. What the operands stand for: characters and the glyph table, positions, nibbles, the frame; and
the numeric codes the spec gives to names.
-/

namespace Sys2Proof.Machine

/-! ## Characters and the glyph table (30_encoding.md R84, 41_lcd.md R133, R134) -/

/-- The eleven valid characters: blank and the ten digits. -/
inductive DisplayChar where
  | blank | d0 | d1 | d2 | d3 | d4 | d5 | d6 | d7 | d8 | d9
  deriving DecidableEq, Repr

/-- The character an 8-bit code stands for, if it is one of the eleven. The codes are ASCII, which the spec
itself takes from general knowledge (PRESUMED; 93_implementation_defined.md G1; log entry 16). -/
def charOfCode (c : Byte) : Option DisplayChar :=
  if c = 0x20 then some .blank
  else if c = 0x30 then some .d0
  else if c = 0x31 then some .d1
  else if c = 0x32 then some .d2
  else if c = 0x33 then some .d3
  else if c = 0x34 then some .d4
  else if c = 0x35 then some .d5
  else if c = 0x36 then some .d6
  else if c = 0x37 then some .d7
  else if c = 0x38 then some .d8
  else if c = 0x39 then some .d9
  else none

/-- The pattern of a valid character (R133): four are given, seven are open parameters. -/
def patternOf : DisplayChar → Pattern
  | .blank => 0x0000
  | .d0 => 0x1551
  | .d1 => 0x0110
  | .d2 => Config.seg2
  | .d3 => Config.seg3
  | .d4 => Config.seg4
  | .d5 => Config.seg5
  | .d6 => Config.seg6
  | .d7 => Config.seg7
  | .d8 => Config.seg8
  | .d9 => 0x0B51

/-- `GLYPH`: the pattern of a character code, `none` outside `dom(GLYPH)` (R133, R134). -/
def glyph (c : Byte) : Option Pattern := (charOfCode c).map patternOf

/-- `nib(s, k) = s[4k+3:4k]` (00_scope.md section 6). -/
def nib (s : Pattern) (k : Fin 4) : Nibble := s.extractLsb' (4 * k.val) 4

/-! ## Positions (41_lcd.md R136) -/

/-- `planeIndex = floor(pos/2) - 1`; integer division by 2 rounds toward minus infinity here. -/
def planeIndex (pos : Int) : Int := pos / 2 - 1

/-- `nibbleSide = pos mod 2` (0 = low nibble, 1 = high nibble). -/
def nibbleSide (pos : Int) : NibbleSide := if pos % 2 = 0 then .low else .high

/-- `(P(pos), S(pos))` for a position of 2 to 7, `none` for every other integer: the range check comes first
and the formulas are not used outside it. -/
def positionToRegister (pos : Int) : Option (Fin 3 × NibbleSide) :=
  if 2 ≤ pos ∧ pos ≤ 7 then some (Fin.ofNat 3 (planeIndex pos).toNat, nibbleSide pos) else none

/-! ## Cells (20_memory.md R62, 41_lcd.md R137) -/

/-- The linear index `3k + p` of the cell `DD[k][p]` (20_memory.md R62). -/
def cellIndex (k : Fin 4) (p : Fin 3) : Nat := 3 * k.val + p.val

/-- The byte that `RMW` writes back: the targeted nibble cleared by its mask, the new nibble OR-ed in at its
place (41_lcd.md R137; `MASK_LOW`, `MASK_HIGH` of 00_scope.md). -/
def mergeNibble (old : Byte) (side : NibbleSide) (n : Nibble) : Byte :=
  match side with
  | .low => (old &&& 0xF0) ||| n.setWidth 8
  | .high => (old &&& 0x0F) ||| (n.setWidth 8 <<< 4)

/-- The nibble of a cell on one side (00_scope.md section 6). -/
def nibbleOf (b : Byte) : NibbleSide → Nibble
  | .low => b.extractLsb' 0 4
  | .high => b.extractLsb' 4 4

/-- The other side of a cell. -/
def NibbleSide.other : NibbleSide → NibbleSide
  | .low => .high
  | .high => .low

/-! ## The frame (40_dac.md R112, 20_memory.md R63, R64) -/

/-- `FRAME = zext_16(value) << 2`. -/
def frameOf (value : Sample) : Frame := value.setWidth 16 <<< 2

/-- The first byte sent, `FRAME[15:8]`. -/
def highByte (f : Frame) : Byte := f.extractLsb' 8 8

/-- The second byte sent, `FRAME[7:0]`. -/
def lowByte (f : Frame) : Byte := f.extractLsb' 0 8

/-- The bits of a byte in the order they leave on the serial line, for a reader who goes below bytes; no rule
depends on it (20_memory.md R64). -/
def wireBits (order : BitOrder) (b : Byte) : List Bool :=
  match order with
  | .msbFirst => [b.getLsbD 7, b.getLsbD 6, b.getLsbD 5, b.getLsbD 4,
                  b.getLsbD 3, b.getLsbD 2, b.getLsbD 1, b.getLsbD 0]
  | .lsbFirst => [b.getLsbD 0, b.getLsbD 1, b.getLsbD 2, b.getLsbD 3,
                  b.getLsbD 4, b.getLsbD 5, b.getLsbD 6, b.getLsbD 7]

/-! ## Numeric codes -/

/-- The 3-bit encoding of `HSQ` (10_state.md R30). -/
def Hsq.code : Hsq → BitVec 3
  | .idle => 0
  | .selected => 1
  | .sendingMsb => 2
  | .msbDone => 3
  | .sendingLsb => 4
  | .lsbDone => 5

/-- The 2-bit codes of the error sink (60_exceptions.md R161). -/
def ErrorCode.code : ErrorCode → BitVec 2
  | .invalidCharacter => 0b01
  | .invalidPosition => 0b10

/-- The code of the diagnostic sink (60_exceptions.md R161). -/
def DiagCode.code : DiagCode → Nat
  | .collision => 1

/-- The number of an inspection point (10_state.md R46). -/
def InspectionPoint.number : InspectionPoint → Nat
  | .first => 1
  | .second => 2

/-- The code of a nibble side: `low` 0, `high` 1 (41_lcd.md R136). -/
def NibbleSide.code : NibbleSide → Bit
  | .low => 0
  | .high => 1

end Sys2Proof.Machine
end

