-- ==== Sys2Proof/Machine/Ops.lean ====
section
/-!
DEFINITION. The named operations over the block's registers, cells, pin and output trace. The shared
operation that raises an error stands here too: the block has no trap, no saved state, no handler and no
return from one (60_exceptions.md R166 to R169), so raising is reporting.
-/

namespace Sys2Proof.Machine

/-- Runs `f` on what the first part gives, unless that part stopped. -/
def andThen {α β : Type} (o : Host.Outcome α Fault Refusal) (f : α → Host.Outcome β Fault Refusal) :
    Host.Outcome β Fault Refusal :=
  match o with
  | .next a => f a
  | .fault r => .fault r
  | .refused r => .refused r

/-! ## The display-data space (20_memory.md R62, R66) -/

/-- The byte of a cell. A cell a list leaves out, which no list of canonical form does, has its reset value. -/
def Memory.lookup : Memory → Nat → Byte
  | [], a => Config.resetCell a
  | (b, v) :: rest, a => if b = a then v else Memory.lookup rest a

/-- The byte at a linear index: every cell holds one. Index 12 and above do not exist (20_memory.md R62). -/
def Memory.read (m : Memory) (a : Nat) : Option Byte := if a < cellCount then some (m.lookup a) else none

/-- Writes one cell and keeps the indices rising. -/
def Memory.write : Memory → Nat → Byte → Memory
  | [], a, v => [(a, v)]
  | (b, w) :: rest, a, v =>
    if a < b then (a, v) :: (b, w) :: rest
    else if a = b then (a, v) :: rest
    else (b, w) :: Memory.write rest a v

/-- The indices are `lo`, `lo + 1` and so on to the last cell. -/
def Memory.wfFrom : Nat → Memory → Bool
  | lo, [] => decide (lo = cellCount)
  | lo, (b, _) :: rest => decide (b = lo) && Memory.wfFrom (lo + 1) rest

/-- The canonical form: the twelve cells, each listed once, at rising indices. No cell is unlisted, and an
index that is not listed does not exist. -/
def Memory.wf (m : Memory) : Bool := Memory.wfFrom 0 m

/-- All twelve cells written with zero: `for k in 0..3: for p in 0..2: DD[k][p] <- 0x00` (41_lcd.md R131). -/
def Memory.zeroAll (m : Memory) : Memory :=
  (List.range cellCount).foldl (fun m a => m.write a 0x00) m

/-- `MemRead(a, 1)`. An index of 12 or above does not exist (20_memory.md R62). -/
def memRead (s : State) (a : Nat) : Host.Outcome Byte Fault Refusal :=
  match s.lcdx.cells.read a with
  | some v => .next v
  | none => .fault (.noSuchCell a)

/-- `MemWrite(a, 1, v)`. -/
def memWrite (s : State) (a : Nat) (v : Byte) : Host.Outcome State Fault Refusal :=
  if a < cellCount then
    .next { s with lcdx := { s.lcdx with cells := s.lcdx.cells.write a v } }
  else .fault (.noSuchCell a)

/-- `RMW(k, p, side, n)`: reads the cell, replaces one nibble, writes the cell back (41_lcd.md R137). -/
def rmw (k : Fin 4) (p : Fin 3) (side : NibbleSide) (n : Nibble) (s : State) :
    Host.Outcome State Fault Refusal :=
  andThen (memRead s (cellIndex k p)) fun old => memWrite s (cellIndex k p) (mergeNibble old side n)

/-- One `RMW` for each row listed, in the list's order, each with its own nibble of the pattern. -/
def rmwRows (p : Fin 3) (side : NibbleSide) (s_pat : Pattern) : List (Fin 4) → State →
    Host.Outcome State Fault Refusal
  | [], s => .next s
  | k :: rest, s => andThen (rmw k p side (nib s_pat k) s) (rmwRows p side s_pat rest)

/-! ## Output -/

/-- `emit E`: appends an event to the output trace (00_scope.md section 6). -/
def State.emit (s : State) (e : Event) : State := { s with trace := s.trace ++ [e] }

/-- The last step of every operation: its response (10_state.md R46). -/
def State.respond (s : State) (op : Op) (r : Result) : State := s.emit (.resp op r)

/-- Drives the chip-select pin: a write of `CS_N`, which the trace shows (20_memory.md R67). -/
def State.driveCs (s : State) (b : Bit) : State :=
  { s with dacx := { s.dacx with csN := b } }.emit (.cs b)

/-- `HSQ <- h`. -/
def State.moveTo (s : State) (h : Hsq) : State := { s with dacx := { s.dacx with hsq := h } }

/-! ## Raising errors (60_exceptions.md R160, R161) -/

/-- `raise BusCollision`: one diagnostic event, nothing else; the sequencer goes on (60_exceptions.md R168,
40_dac.md R115). -/
def State.raiseCollision (s : State) (i : InspectionPoint) : State := s.emit (.diag .collision i)

/-- `raise InvalidCharacter`, `raise InvalidPosition` in LCD.WRITE: the code goes to the error sink, no cell
and no register is touched (60_exceptions.md R166). -/
def State.raiseInvalid (s : State) (code : ErrorCode) : State := s.emit (.err code)

/-- The codes to report in order, in the one case the source leaves open (41_lcd.md R140). -/
def bothInvalidCodes : BothInvalidReport → List ErrorCode
  | .charOnly => [.invalidCharacter]
  | .posOnly => [.invalidPosition]
  | .charThenPos => [.invalidCharacter, .invalidPosition]
  | .posThenChar => [.invalidPosition, .invalidCharacter]

/-- What LCD.WRITE reports, from whether its character and its position are valid (41_lcd.md R140,
60_exceptions.md R164). -/
def invalidCodes (okc okp : Bool) : List ErrorCode :=
  match okc, okp with
  | true, true => []
  | false, true => [.invalidCharacter]
  | true, false => [.invalidPosition]
  | false, false => bothInvalidCodes Config.bothInvalidReport

/-- Reports each code in turn. -/
def State.raiseAll (s : State) (codes : List ErrorCode) : State := codes.foldl State.raiseInvalid s

/-- What a refusal does to the bookkeeping: "`REFUSED` (set by any `refuse`, never cleared)" (10_state.md
R45). A refused step itself answers `Host.Outcome.refused` and gives no state, since "no state change is
promised" (30_encoding.md R89); a run that carries a state past it carries this one. -/
def State.markRefused (s : State) : State := { s with refused := true }

/-! ## Serial bus (40_dac.md R105, R107, R110, R111) -/

/-- The contention check at an inspection point: draws the collision flag, raises BusCollision if it is 1
(10_state.md R35, R36). -/
def State.inspect (s : State) (i : InspectionPoint) : State :=
  let s' := { s with env := s.env.drawWcol.2 }
  if s.env.drawWcol.1 then s'.raiseCollision i else s'

/-- `DATA <- b`, which loads the byte engine (R110). While a transfer is in flight it is refused (R114). -/
def loadData (b : Byte) (s : State) : Host.Outcome State Fault Refusal :=
  if s.dacx.shifting then .refused .loadInFlight
  else .next ({ s with dacx := { s.dacx with data := b, shreg := b, shifting := true } }.setXferDone false)

/-- The byte engine's completion (R111): the byte counts as sent, the flag rises, and `DATA` is left with a
drawn value. -/
def State.complete (s : State) : State :=
  { s with
    dacx := { s.dacx with shifting := false, data := s.env.drawRx.1 }
    env := s.env.drawRx.2 }.setXferDone true |>.emit (.tx s.dacx.shreg)

end Sys2Proof.Machine
end

