-- ==== Sys2Proof/Machine/Dac.lean ====
section
/-!
DEFINITION. The DACX operations and the handshake sequencer (40_dac.md).
-/

namespace Sys2Proof.Machine

/-- A DAC operation is outstanding: the sequencer is not idle, or DAC.INIT has done its configuration step and
its inner transaction is to come (40_dac.md R102, R118). -/
def State.dacOutstanding (s : State) : Bool := decide (s.dacx.hsq ≠ .idle) || s.dacx.initRunning

/-! ## The six transitions, one per arrow (40_dac.md R104 to R109) -/

/-- `Idle → Selected` (R104). -/
def toSelected (value : Sample) (s : State) : State :=
  ({ s with dacx := { s.dacx with frame := frameOf value } }.driveCs 0).moveTo .selected

/-- `Selected → SendingMSB` (R105): the inspection, then the load of the upper byte whatever was seen. -/
def toSendingMsb (s : State) : Host.Outcome State Fault Refusal :=
  andThen (loadData (highByte s.dacx.frame) (s.inspect .first)) fun s => .next (s.moveTo .sendingMsb)

/-- `SendingMSB → MSBDone` (R106), enabled when the transfer is complete. -/
def toMsbDone (s : State) : State := s.moveTo .msbDone

/-- `MSBDone → SendingLSB` (R107): the second inspection, then the load of the lower byte. -/
def toSendingLsb (s : State) : Host.Outcome State Fault Refusal :=
  andThen (loadData (lowByte s.dacx.frame) (s.inspect .second)) fun s => .next (s.moveTo .sendingLsb)

/-- `SendingLSB → LSBDone` (R108), enabled when the transfer is complete. -/
def toLsbDone (s : State) : State := s.moveTo .lsbDone

/-- `LSBDone → Idle` (R109). The response is DAC.INIT's when the transaction was its inner one. -/
def toIdle (s : State) : State :=
  let op := if s.dacx.initRunning then Op.dacInit else Op.dacWrite
  let s' := (s.driveCs 1).moveTo .idle
  { s' with dacx := { s'.dacx with initRunning := false } }.respond op .done

/-- One turn of the sequencer. In a wait whose flag is 0 it has no step (R106, R108: "busy-wait (spin)"; the
spin's reads "have no effect and are not steps"), so its turn changes nothing. -/
def sequencerTurn (s : State) : Host.Outcome State Fault Refusal :=
  match s.dacx.hsq with
  | .idle => if s.dacx.initRunning then .next (toSelected 0 s) else .next s
  | .selected => toSendingMsb s
  | .sendingMsb => if s.dacx.xferDone then .next (toMsbDone s) else .next s
  | .msbDone => toSendingLsb s
  | .sendingLsb => if s.dacx.xferDone then .next (toLsbDone s) else .next s
  | .lsbDone => .next (toIdle s)

/-! ## The operations -/

/-- DAC.INIT, its configuration step (40_dac.md R101); the inner transaction follows at once, by the
sequencer's turns (R102). Refused while a DAC operation is outstanding (R118). -/
def execDacInit (s : State) : Host.Outcome State Fault Refusal :=
  if s.dacOutstanding then .refused .dacBusy
  else
    let sbc : Sbc :=
      { mstrEn := 1, busEn := 1, clkSel := Config.dacClkSelInit, dblSpd := Config.dacDblSpdInit }
    .next ({ s with dacx := { s.dacx with sbc := sbc, initRunning := true, dacInited := true } }.driveCs 1)

/-- DAC.WRITE: admitted when idle and initialised (40_dac.md R118), it takes the arrow `Idle → Selected`
(R103, R104); the sequencer's turns do the rest. -/
def execDacWrite (value : Sample) (s : State) : Host.Outcome State Fault Refusal :=
  if s.dacOutstanding then .refused .dacBusy
  else if s.dacx.dacInited then .next (toSelected value s)
  else .refused .dacNotInitialised

end Sys2Proof.Machine
end

