-- ==== Sys2Proof/Machine/Lcd.lean ====
section
/-!
DEFINITION. The LCDX operations, each one step (41_lcd.md).
-/

namespace Sys2Proof.Machine

/-- LCD.INIT (41_lcd.md R131): ten control fields, twelve cells, the ghost flag, the response. -/
def execLcdInit (s : State) : Host.Outcome State Fault Refusal :=
  let lcr : Lcr :=
    { en := 1
      wave := Config.lcdInit.wave
      bias := Config.lcdInit.bias
      duty := Config.lcdInit.duty
      segcnt := Config.lcdInit.segcnt
      presc := Config.lcdInit.presc
      drive := Config.lcdInit.drive
      irq := Config.lcdInit.irq
      xclk := Config.lcdInit.xclk
      clkdiv := Config.lcdInit.clkdiv }
  .next ({ s with
    lcdx := { cells := s.lcdx.cells.zeroAll, lcr := lcr, lcdInited := true } }.respond .lcdInit .done)

/-- LCD.C2S (41_lcd.md R132): the pattern or the error, in the response and nowhere else (R144). -/
def execLcdC2s (c : Byte) (s : State) : Host.Outcome State Fault Refusal :=
  match glyph c with
  | some pat => .next (s.respond .lcdC2s (.pattern pat))
  | none => .next (s.respond .lcdC2s (.error .invalidCharacter))

/-- LCD.P2R (41_lcd.md R135): the register or the error, in the response and nowhere else (R144). -/
def execLcdP2r (pos : Int) (s : State) : Host.Outcome State Fault Refusal :=
  match positionToRegister pos with
  | some (p, side) => .next (s.respond .lcdP2r (.reg p side))
  | none => .next (s.respond .lcdP2r (.error .invalidPosition))

/-- The body of LCD.WRITE: both lookups first, then four read-modify-writes in the order of the rows (R141) or
the reports, never a part of either (41_lcd.md R138, R139). -/
def lcdApply (c : Byte) (pos : Int) (s : State) : Host.Outcome State Fault Refusal :=
  match glyph c, positionToRegister pos with
  | some pat, some (p, side) => rmwRows p side pat [0, 1, 2, 3] s
  | okc, okp => .next (s.raiseAll (invalidCodes okc.isSome okp.isSome))

/-- LCD.WRITE (41_lcd.md R138): admitted once LCD.INIT has been given (R145), whatever its operands; the
response is `done` whether or not an operand was invalid. -/
def execLcdWrite (c : Byte) (pos : Int) (s : State) : Host.Outcome State Fault Refusal :=
  if s.lcdx.lcdInited then
    andThen (lcdApply c pos s) fun s => .next (s.respond .lcdWrite .done)
  else .refused .lcdNotInitialised

end Sys2Proof.Machine
end

