-- ==== Sys2Proof/Machine/Dispatch.lean ====
section
/-!
DEFINITION. One arm per operation of the opcode table.
-/

namespace Sys2Proof.Machine

/-- The meaning of each command. -/
def exec (i : Instr) (s : State) : Host.Outcome State Fault Refusal :=
  match i with
  | .dacInit => Sys2Proof.Machine.execDacInit s
  | .dacWrite value => Sys2Proof.Machine.execDacWrite value s
  | .lcdInit => Sys2Proof.Machine.execLcdInit s
  | .lcdC2s c => Sys2Proof.Machine.execLcdC2s c s
  | .lcdP2r pos => Sys2Proof.Machine.execLcdP2r pos s
  | .lcdWrite c pos => Sys2Proof.Machine.execLcdWrite c pos s

end Sys2Proof.Machine
end

