-- ==== Sys2Proof/Machine/Port.lean ====
section
/-!
DEFINITION. The turns of the agents in one step: the command port, the byte engine, the sequencer, the host
(00_scope.md R8).
-/

namespace Sys2Proof.Machine

/-- A word at the command port is decoded and run. A reserved word is refused (30_encoding.md R89); so is a
command presented while another is outstanding (70_reset_and_hazards.md R190). -/
def present (w : CommandWord) (s : State) : Host.Outcome State Fault Refusal :=
  match decode w with
  | .error why => .refused (.reservedWord why)
  | .ok i => if s.dacOutstanding then .refused .commandOutstanding else exec i s

/-- The host's turn, when nothing is outstanding: it presents the next command of its run
(70_reset_and_hazards.md R197). With none left the block executes nothing (R183). -/
def hostTurn (s : State) : State :=
  match s.script with
  | [] => s
  | w :: rest => { s with port := some w, script := rest }

/-- The sequencer's turn while a DAC operation is outstanding, else the host's. -/
def otherTurn (s : State) : Host.Outcome State Fault Refusal :=
  if s.dacOutstanding then sequencerTurn s else .next (hostTurn s)

/-- The byte engine's turn comes first: while a transfer is in flight the environment says whether it
completes now (40_dac.md R111, R116); where it does not, and where no transfer is in flight, the turn passes
on. -/
def engineTurn (s : State) : Host.Outcome State Fault Refusal :=
  if s.dacx.shifting then
    let s' := { s with env := s.env.drawDone.2 }
    if s.env.drawDone.1 then .next s'.complete else otherTurn s'
  else otherTurn s

/-- One step of the block: the command at the port, if there is one, else the turn of the agent that has one.
In a run marked refused nothing has a meaning any more (70_reset_and_hazards.md R197). -/
def blockStep (s : State) : Host.Outcome State Fault Refusal :=
  if s.refused then .refused .runRefused
  else
    match s.port with
    | some w => present w { s with port := none }
    | none => engineTurn s

end Sys2Proof.Machine
end

