-- ==== Sys2Proof/Machine/Step.lean ====
section
/-!
DEFINITION. One step of the machine, and a command placed where the step takes it from.
-/

namespace Sys2Proof.Machine

/-- One step. -/
def step (s : State) : Host.Outcome State Fault Refusal := blockStep s

/-- The state with a command's word at the command port, where the next step takes it (the block fetches no
instructions, 20_memory.md R75; log entry 12). -/
def State.withFetchWord (s : State) (nbits w : Nat) : State :=
  { s with port := some (wordOfNumber nbits w) }

end Sys2Proof.Machine
end

