-- ==== Sys2Proof/Safety.lean ====
section
/-!
DEFINITION. Runs and their end, the invariants of the two sub-blocks and of the host, and the bus protocol a
trace must follow: the terms in which statements about the whole machine are made.
-/

namespace Sys2Proof.Machine

/-! ## Runs -/

/-- `n` steps, stopping at the first fault or refusal. -/
def steps : Nat → State → Host.Outcome State Fault Refusal
  | 0, s => .next s
  | n + 1, s => andThen (step s) (steps n)

/-- One step of a run that is carried on past a refusal: the refusal sets `REFUSED` (10_state.md R45) and
promises nothing else, so nothing else is changed here and every later step is refused. -/
def advance (s : State) : State :=
  match step s with
  | .next t => t
  | .refused _ => s.markRefused
  | .fault _ => s

/-- The run has ended (70_reset_and_hazards.md R197): every command has returned, the sequencer is idle, no
transfer is in flight, nothing was refused. -/
def State.runEnded (s : State) : Bool :=
  s.script.isEmpty && s.port.isNone && !s.dacOutstanding && !s.dacx.shifting && !s.refused

/-! ## Invariants -/

/-- What holds of DACX along every run. -/
structure DacInv (d : Dacx) : Prop where
  /-- A DAC operation runs only after DAC.INIT (40_dac.md R118). -/
  inited : d.hsq ≠ .idle ∨ d.initRunning = true → d.dacInited = true
  /-- A transfer is in flight only during a wait, with its flag down (40_dac.md R113). -/
  shifting : d.shifting = true → (d.hsq = .sendingMsb ∨ d.hsq = .sendingLsb) ∧ d.xferDone = false
  /-- A wait whose flag is down has a transfer in flight, so the byte engine can end it (40_dac.md R116). -/
  waiting : d.hsq = .sendingMsb ∨ d.hsq = .sendingLsb → d.xferDone = false → d.shifting = true
  /-- After a wait the flag is up (40_dac.md R106, R108). -/
  waited : d.hsq = .msbDone ∨ d.hsq = .lsbDone → d.xferDone = true
  /-- Chip-select is low during a transaction (70_reset_and_hazards.md R194). -/
  csLow : d.hsq ≠ .idle → d.csN = 0
  /-- Chip-select is high between transactions, once DAC.INIT has been given (10_state.md R40). -/
  csHigh : d.hsq = .idle → d.dacInited = true → d.csN = 1
  /-- The serial control register keeps what DAC.INIT wrote (10_state.md R37). -/
  master : d.dacInited = true → d.sbc = { mstrEn := 1, busEn := 1, clkSel := Config.dacClkSelInit, dblSpd := Config.dacDblSpdInit }
  /-- The frame's top and low two bits are 0 (40_dac.md R112). -/
  padding : d.hsq ≠ .idle → d.frame.extractLsb' 14 2 = 0 ∧ d.frame.extractLsb' 0 2 = 0
  /-- The byte in flight, or last sent, is the frame's upper byte up to the second load. -/
  upper : d.hsq = .sendingMsb ∨ d.hsq = .msbDone → d.shreg = highByte d.frame
  /-- After the second load it is the lower byte. -/
  lower : d.hsq = .sendingLsb ∨ d.hsq = .lsbDone → d.shreg = lowByte d.frame

/-- What LCD.INIT writes to the control fields (41_lcd.md R131). -/
def lcrInitial : Lcr where
  en := 1
  wave := Config.lcdInit.wave
  irq := Config.lcdInit.irq
  xclk := Config.lcdInit.xclk
  bias := Config.lcdInit.bias
  duty := Config.lcdInit.duty
  segcnt := Config.lcdInit.segcnt
  presc := Config.lcdInit.presc
  clkdiv := Config.lcdInit.clkdiv
  drive := Config.lcdInit.drive

/-- What holds of LCDX along every run. -/
structure LcdInv (l : Lcdx) : Prop where
  /-- The display-data space keeps its canonical form: all twelve cells, each once (20_memory.md R62). -/
  wf : l.cells.wf = true
  /-- The control fields keep what LCD.INIT wrote: "Access: written only by LCD.INIT" (10_state.md R41). -/
  lcr : l.lcdInited = true → l.lcr = lcrInitial

/-- The host keeps to one command at a time: nothing is at the port while an operation is outstanding
(70_reset_and_hazards.md R190). A run of `State.script` from reset keeps it; a state with a second command
placed at the port does not have it. -/
def HostInv (s : State) : Prop := s.dacOutstanding = true → s.port = none

/-! ## The bus protocol of a trace (70_reset_and_hazards.md R194, 20_memory.md R72) -/

/-- Where a trace stands: outside a transaction, or in one with the bytes sent so far. -/
inductive BusPhase where
  | outside
  | inside (sent : List Byte)
  deriving DecidableEq, Repr

/-- One event's move, `none` where the protocol forbids it: no byte outside a low period, no second fall of
chip-select, never a third byte, no rise before both bytes. -/
def busMove (ph : BusPhase) (e : Event) : Option BusPhase :=
  match ph, e with
  | .outside, .cs b => if b = 0 then some (.inside []) else some .outside
  | .outside, .tx _ => none
  | .inside sent, .cs b => if b = 1 ∧ sent.length = 2 then some .outside else none
  | .inside sent, .tx b => if sent.length < 2 then some (.inside (sent ++ [b])) else none
  | ph, .diag _ _ => some ph
  | ph, .err _ => some ph
  | ph, .resp _ _ => some ph

/-- Where a whole trace stands, `none` if an event of it broke the protocol. -/
def busPhase (trace : List Event) : Option BusPhase :=
  trace.foldl (fun ph e => ph.bind fun p => busMove p e) (some .outside)

/-- Where the sequencer says the bus stands: the bytes of the frame sent so far, upper byte first. -/
def Dacx.busPhase (d : Dacx) : BusPhase :=
  match d.hsq with
  | .idle => .outside
  | .selected => .inside []
  | .sendingMsb => if d.xferDone then .inside [highByte d.frame] else .inside []
  | .msbDone => .inside [highByte d.frame]
  | .sendingLsb =>
    if d.xferDone then .inside [highByte d.frame, lowByte d.frame] else .inside [highByte d.frame]
  | .lsbDone => .inside [highByte d.frame, lowByte d.frame]

/-- The trace follows the bus protocol and stands where the sequencer does. -/
def BusInv (s : State) : Prop := Machine.busPhase s.trace = some s.dacx.busPhase

/-! ## Words used in statements -/

/-- The arrows of the sequencer (10_state.md R29, R31). -/
def Hsq.succ : Hsq → Hsq
  | .idle => .selected
  | .selected => .sendingMsb
  | .sendingMsb => .msbDone
  | .msbDone => .sendingLsb
  | .sendingLsb => .lsbDone
  | .lsbDone => .idle

/-- The command belongs to LCDX. -/
def isLcd : Instr → Bool
  | .dacInit | .dacWrite _ => false
  | .lcdInit | .lcdC2s _ | .lcdP2r _ | .lcdWrite _ _ => true

/-- The operation belongs to LCDX. -/
def Op.isLcd : Op → Bool
  | .dacInit | .dacWrite => false
  | .lcdInit | .lcdC2s | .lcdP2r | .lcdWrite => true

/-- The event comes from LCDX: an error forwarded, or the response of an LCD operation. -/
def Event.isLcd : Event → Bool
  | .cs _ | .tx _ | .diag _ _ => false
  | .err _ => true
  | .resp op _ => op.isLcd

/-- The diagnostic event of an inspection, present exactly when its draw is 1 (40_dac.md R117). -/
def collisionEvent (w : Bool) (i : InspectionPoint) : List Event :=
  if w then [.diag .collision i] else []

end Sys2Proof.Machine
end

