-- ==== Sys2Proof/Certificates/Slice0/Obligations.lean ====
section
/-!
DEFINITION. The statements for the provers, from the spec's numbered rules. Where a statement names a file by its
number: 10 is 10_state.md, 20 20_memory.md, 30 30_encoding.md, 40 40_dac.md, 41 41_lcd.md, 60
60_exceptions.md, 70 70_reset_and_hazards.md.
-/

open Sys2Proof Sys2Proof.Machine

/-! ## Commands and their words -/

/-- A few words, from the table of 30 R87 and the decoder vectors E1 to E18 of 95_test_vectors.md. -/
def Obligations.SampleWordsDecode : Prop :=
  decode 0x10000 = .ok .dacInit ∧ decode 0x20FFF = .ok (.dacWrite 4095) ∧ decode 0x40000 = .ok .lcdInit ∧
  decode 0x53000 = .ok (.lcdC2s 0x30) ∧ decode 0x60007 = .ok (.lcdP2r 7) ∧
  decode 0x73505 = .ok (.lcdWrite 0x35 5) ∧ decode 0x7FFFF = .ok (.lcdWrite 0xFF 255) ∧
  decode 0x00000 = .error .opcode ∧ decode 0x10001 = .error .argumentNotZero ∧
  decode 0x21000 = .error .aboveSampleNotZero ∧ decode 0x53001 = .error .belowCharacterNotZero ∧
  decode 0x60100 = .error .abovePositionNotZero

/-- The decoder reads back every well-formed command's word, with every operand (30 R81 to R86). -/
def Obligations.WellFormedCommandsRoundTrip : Prop :=
  ∀ i : Instr, i.WellFormed = true → decode (encode i) = .ok i

/-- Each word has one meaning: a word that decodes is the word of what it decodes to, and that is well
formed (30 R87: "a word `w` is the instruction exactly when `w & mask = match`"). -/
def Obligations.DecodedWordsEncodeBack : Prop :=
  ∀ (w : CommandWord) (i : Instr), decode w = .ok i → encode i = w ∧ i.WellFormed = true

/-- The reserved words are those that match no row of the table, and they are those 30 R88 lists. -/
def Obligations.ReservedWordsAreTheListedOnes : Prop :=
  ∀ w : CommandWord,
    ((∃ why, decode w = .error why) ↔ matchesTable w = false) ∧
    (matchesTable w = false ↔
      (opField w = 0x0 ∨ opField w = 0x3 ∨ 0x8 ≤ (opField w).toNat) ∨
      ((opField w = 0x1 ∨ opField w = 0x4) ∧ argField w ≠ 0) ∨
      (opField w = 0x2 ∧ aboveSampleField w ≠ 0) ∨
      (opField w = 0x5 ∧ posField w ≠ 0) ∨
      (opField w = 0x6 ∧ charField w ≠ 0))

/-- A step with an admitted command's word at the port is that command's meaning, the port emptied. -/
def Obligations.StepRunsTheDecodedCommand : Prop :=
  ∀ (s : State) (w : CommandWord) (i : Instr), s.refused = false → s.dacOutstanding = false →
    s.port = some w → decode w = .ok i → step s = exec i { s with port := none }

/-- A well-formed command placed at the port runs in the very next step. -/
def Obligations.PlacedCommandRunsNext : Prop :=
  ∀ (s : State) (i : Instr), s.refused = false → s.dacOutstanding = false → i.WellFormed = true →
    step (s.withFetchWord 20 (encode i).toNat) = exec i { s with port := none } ∧
    decodeTableWord 20 (encode i).toNat = some i

/-- A reserved word is refused and marks the run, whatever the state (30 R89). -/
def Obligations.ReservedWordRefused : Prop :=
  ∀ (s : State) (w : CommandWord) (why : Reserved), s.refused = false → s.port = some w →
    decode w = .error why → step s = .refused (.reservedWord why) ∧ (advance s).refused = true

/-- One command at a time: the host presents none while one is outstanding, and one presented all the same is
refused, of either sub-block (70 R190). -/
def Obligations.SecondCommandRefused : Prop :=
  ∀ s : State, s.refused = false → s.dacOutstanding = true →
    (s.port = none → ∀ t, step s = .next t → t.port = none ∧ t.script = s.script) ∧
    (∀ w i, s.port = some w → decode w = .ok i → step s = .refused .commandOutstanding)

/-- Every refusal marks the run, and nothing clears the mark (10 R45). -/
def Obligations.RefusalMarksTheRunForEver : Prop :=
  (∀ (s : State) (r : Refusal), step s = .refused r → (advance s).refused = true) ∧
  (∀ s : State, s.refused = true → (advance s).refused = true ∧ step s = .refused .runRefused) ∧
  (∀ s t : State, step s = .next t → t.refused = s.refused)

/-- With nothing outstanding and nothing at the port, the block executes nothing; the host presents its next
word if it has one (70 R183, R197). That the block's idle step is a step to the same state is the model's
choice (log entry 14). -/
def Obligations.IdleBlockWaitsForTheHost : Prop :=
  ∀ s : State, s.refused = false → s.port = none → s.dacOutstanding = false → s.dacx.shifting = false →
    (s.script = [] → step s = .next s) ∧
    (∀ w rest, s.script = w :: rest → step s = .next { s with port := some w, script := rest })

/-! ## DACX -/

/-- DAC.INIT's word, its configuration step, and its refusal where the sequencer is not idle (40 R101). -/
def Obligations.DacInitConfigures : Prop :=
  encode .dacInit = 0x10000 ∧
  (∀ s : State, s.dacx.hsq ≠ .idle → exec .dacInit s = .refused .dacBusy) ∧
  ∀ s : State, s.dacx.hsq = .idle → s.dacx.initRunning = false →
    exec .dacInit s = .next { s with
      dacx := { s.dacx with
        sbc := { mstrEn := 1, busEn := 1, clkSel := Config.dacClkSelInit, dblSpd := Config.dacDblSpdInit }
        csN := 1, dacInited := true, initRunning := true }
      trace := s.trace ++ [.cs 1] }

/-- The arrow `Idle → Selected`, of an admitted DAC.WRITE and of DAC.INIT's inner transaction (40 R104). -/
def Obligations.IdleToSelected : Prop :=
  (∀ (s : State) (v : Sample), s.dacx.hsq = .idle → s.dacx.initRunning = false → s.dacx.dacInited = true →
    exec (.dacWrite v) s = .next { s with
      dacx := { s.dacx with frame := v.setWidth 16 <<< 2, csN := 0, hsq := .selected }
      trace := s.trace ++ [.cs 0] }) ∧
  (∀ s : State, DacInv s.dacx → s.refused = false → s.port = none → s.dacx.hsq = .idle →
    s.dacx.initRunning = true → step s = .next { s with
      dacx := { s.dacx with frame := 0x0000, csN := 0, hsq := .selected }
      trace := s.trace ++ [.cs 0] })

/-- Admission of the DAC operations (40 R118). That both are refused at `HSQ = Idle` too, while a DAC.INIT has its
inner transaction still to come, is not in R118: it is the model's reading of R102 ("Nothing can come between"),
held in the model's own field `initRunning` (log entry 11, DEDUCED). -/
def Obligations.DacAdmission : Prop :=
  ∀ (s : State) (v : Sample),
    (s.dacx.hsq ≠ .idle ∨ s.dacx.initRunning = true → exec .dacInit s = .refused .dacBusy ∧ exec (.dacWrite v) s = .refused .dacBusy) ∧
    (s.dacx.hsq = .idle → s.dacx.initRunning = false →
      (∃ t, exec .dacInit s = .next t) ∧
      (s.dacx.dacInited = true → ∃ t, exec (.dacWrite v) s = .next t) ∧
      (s.dacx.dacInited = false → exec (.dacWrite v) s = .refused .dacNotInitialised))

/-- The arrow `Selected → SendingMSB`: inspection, then the load of the upper byte (40 R105, with R110). -/
def Obligations.SelectedToSendingMsb : Prop :=
  ∀ s : State, DacInv s.dacx → s.refused = false → s.port = none → s.dacx.hsq = .selected →
    step s = .next { s with
      dacx := { s.dacx with
        hsq := .sendingMsb, data := s.dacx.frame.extractLsb' 8 8, shreg := s.dacx.frame.extractLsb' 8 8
        shifting := true, xferDone := false }
      env := s.env.drawWcol.2
      trace := s.trace ++ collisionEvent s.env.drawWcol.1 .first }

/-- The two completion waits: the arrow once the flag is up (40 R106, R108). Those rules say only that the
sequencer has no step before; that the block's step in which the completion is not drawn is one that changes only
the draws is the model's choice (log entry 6, DEDUCED). -/
def Obligations.CompletionWaits : Prop :=
  ∀ s : State, DacInv s.dacx → s.refused = false → s.port = none →
    (s.dacx.hsq = .sendingMsb → s.dacx.xferDone = true →
      step s = .next { s with dacx := { s.dacx with hsq := .msbDone } }) ∧
    (s.dacx.hsq = .sendingLsb → s.dacx.xferDone = true →
      step s = .next { s with dacx := { s.dacx with hsq := .lsbDone } }) ∧
    (s.dacx.hsq = .sendingMsb ∨ s.dacx.hsq = .sendingLsb → s.dacx.xferDone = false →
      s.env.drawDone.1 = false → step s = .next { s with env := s.env.drawDone.2 })

/-- The arrow `MSBDone → SendingLSB`: the second inspection, then the load of the lower byte (40 R107). -/
def Obligations.MsbDoneToSendingLsb : Prop :=
  ∀ s : State, DacInv s.dacx → s.refused = false → s.port = none → s.dacx.hsq = .msbDone →
    step s = .next { s with
      dacx := { s.dacx with
        hsq := .sendingLsb, data := s.dacx.frame.extractLsb' 0 8, shreg := s.dacx.frame.extractLsb' 0 8
        shifting := true, xferDone := false }
      env := s.env.drawWcol.2
      trace := s.trace ++ collisionEvent s.env.drawWcol.1 .second }

/-- The arrow `LSBDone → Idle` with the operation's response; the flag is left at 1 (40 R109). -/
def Obligations.LsbDoneToIdle : Prop :=
  ∀ s : State, DacInv s.dacx → s.refused = false → s.port = none → s.dacx.hsq = .lsbDone →
    s.dacx.xferDone = true ∧ step s = .next { s with
      dacx := { s.dacx with csN := 1, hsq := .idle, initRunning := false }
      trace := s.trace ++ [.cs 1, .resp (if s.dacx.initRunning then .dacInit else .dacWrite) .done] }

/-- The load of the data register with no transfer in flight (40 R110). -/
def Obligations.LoadStartsTransfer : Prop :=
  ∀ (s : State) (b : Byte), s.dacx.shifting = false →
    loadData b s = .next { s with
      dacx := { s.dacx with data := b, shreg := b, shifting := true, xferDone := false } }

/-- The byte engine's completion, in whatever state of the sequencer a transfer is in flight (40 R111). What
`DATA` is left with is the draw. -/
def Obligations.TransferCompletes : Prop :=
  ∀ s : State, s.refused = false → s.port = none → s.dacx.shifting = true → s.env.drawDone.1 = true →
    step s = .next { s with
      dacx := { s.dacx with
        shifting := false, xferDone := true, data := s.env.drawDone.2.drawRx.1 }
      env := s.env.drawDone.2.drawRx.2
      trace := s.trace ++ [.tx s.dacx.shreg] }

/-- A load while a transfer is in flight is refused, by itself and in a step (40 R114). -/
def Obligations.LoadInFlightRefused : Prop :=
  ∀ s : State, s.dacx.shifting = true →
    (∀ b, loadData b s = .refused .loadInFlight) ∧
    (s.refused = false → s.port = none → s.env.drawDone.1 = false →
      s.dacx.hsq = .selected ∨ s.dacx.hsq = .msbDone → step s = .refused .loadInFlight)

/-- The arithmetic of the frame (40 R112). -/
def Obligations.FrameArithmetic : Prop :=
  ∀ v : Sample,
    (frameOf v).toNat = 4 * v.toNat ∧
    (frameOf v).extractLsb' 14 2 = 0 ∧ (frameOf v).extractLsb' 2 12 = v ∧ (frameOf v).extractLsb' 0 2 = 0 ∧
    (highByte (frameOf v)).extractLsb' 6 2 = 0 ∧ (highByte (frameOf v)).extractLsb' 0 6 = v.extractLsb' 6 6 ∧
    (lowByte (frameOf v)).extractLsb' 2 6 = v.extractLsb' 0 6 ∧ (lowByte (frameOf v)).extractLsb' 0 2 = 0 ∧
    (highByte (frameOf v)).toNat ≤ 0x3F ∧ (lowByte (frameOf v)).toNat % 4 = 0 ∧
    (lowByte (frameOf v)).toNat ≤ 0xFC ∧
    (highByte (frameOf v)).toNat * 256 + (lowByte (frameOf v)).toNat = 4 * v.toNat

/-- The whole of DAC.WRITE, for every sample, every pair of collision draws and every finite delay of the two
completions (40 R103, R117). -/
def Obligations.WriteSendsBothBytes : Prop :=
  ∀ (s : State) (v : Sample) (w₁ w₂ : Bool) (n₁ n₂ : Nat) (ws ds : List Bool),
    DacInv s.dacx → s.refused = false → s.dacx.hsq = .idle → s.dacx.initRunning = false →
    s.dacx.dacInited = true → s.env.wcol = w₁ :: w₂ :: ws →
    s.env.done = List.replicate n₁ false ++ true :: (List.replicate n₂ false ++ true :: ds) →
    ∃ t, steps (n₁ + n₂ + 8) (s.withFetchWord 20 (0x20000 + v.toNat)) = .next t ∧
      t.trace = s.trace ++ ([.cs 0] ++ collisionEvent w₁ .first ++ [.tx ((v.setWidth 16 <<< 2).extractLsb' 8 8)] ++
        collisionEvent w₂ .second ++ [.tx ((v.setWidth 16 <<< 2).extractLsb' 0 8), .cs 1, .resp .dacWrite .done]) ∧
      t.dacx = { s.dacx with
        hsq := .idle, csN := 1, frame := v.setWidth 16 <<< 2, shreg := (v.setWidth 16 <<< 2).extractLsb' 0 8
        shifting := false, xferDone := true, data := t.dacx.data } ∧
      t.lcdx = s.lcdx ∧ t.refused = false ∧ t.port = none ∧ t.script = s.script ∧
      t.env.wcol = ws ∧ t.env.done = ds

/-- The whole of DAC.INIT: the configuration and, at once, the zero transaction (40 R102). -/
def Obligations.InitSendsTheZeroFrame : Prop :=
  ∀ (s : State) (w₁ w₂ : Bool) (n₁ n₂ : Nat) (ws ds : List Bool),
    DacInv s.dacx → s.refused = false → s.dacx.hsq = .idle → s.dacx.initRunning = false →
    s.env.wcol = w₁ :: w₂ :: ws →
    s.env.done = List.replicate n₁ false ++ true :: (List.replicate n₂ false ++ true :: ds) →
    ∃ t, steps (n₁ + n₂ + 9) (s.withFetchWord 20 0x10000) = .next t ∧
      t.trace = s.trace ++ ([.cs 1, .cs 0] ++ collisionEvent w₁ .first ++ [.tx 0x00] ++
        collisionEvent w₂ .second ++ [.tx 0x00, .cs 1, .resp .dacInit .done]) ∧
      t.dacx = { s.dacx with
        sbc := { mstrEn := 1, busEn := 1, clkSel := Config.dacClkSelInit, dblSpd := Config.dacDblSpdInit }
        hsq := .idle, csN := 1, frame := 0x0000, shreg := 0x00, shifting := false, xferDone := true
        dacInited := true, data := t.dacx.data } ∧
      t.lcdx = s.lcdx ∧ t.refused = false ∧ t.port = none ∧ t.script = s.script ∧
      t.env.wcol = ws ∧ t.env.done = ds

/-- An unresponsive bus holds the wait for as long as no completion is drawn, however long that is: no
timeout, nothing sent, chip-select still low (40 R116). -/
def Obligations.UnresponsiveBusHolds : Prop :=
  ∀ (s : State) (n : Nat) (ds : List Bool), DacInv s.dacx → s.refused = false → s.port = none →
    s.dacx.hsq = .sendingMsb ∨ s.dacx.hsq = .sendingLsb → s.dacx.xferDone = false →
    s.env.done = List.replicate n false ++ ds →
    steps n s = .next { s with env := { s.env with done := ds } } ∧ s.dacx.csN = 0 ∧ s.dacx.shifting = true

/-- A collision has no effect but its diagnostic event: whatever the draws, the inspecting step leaves the
same DACX (40 R115). -/
def Obligations.CollisionOnlyLogs : Prop :=
  ∀ (s : State) (e : Env), DacInv s.dacx → s.refused = false → s.port = none →
    s.dacx.hsq = .selected ∨ s.dacx.hsq = .msbDone →
    ∃ t u, step s = .next t ∧ step { s with env := e } = .next u ∧ t.dacx = u.dacx ∧ t.lcdx = u.lcdx ∧
      t.trace = s.trace ++ collisionEvent s.env.drawWcol.1 (if s.dacx.hsq = .selected then .first else .second) ∧
      u.trace = s.trace ++ collisionEvent e.drawWcol.1 (if s.dacx.hsq = .selected then .first else .second)

/-- The sequencer advances along its six arrows only, one arrow a step, and while it is not idle a DAC
operation is outstanding (10 R31). -/
def Obligations.SequencerFollowsItsArrows : Prop :=
  (∀ s t : State, step s = .next t → t.dacx.hsq = s.dacx.hsq ∨ t.dacx.hsq = s.dacx.hsq.succ) ∧
  (∀ s : State, s.dacx.hsq ≠ .idle → s.dacOutstanding = true)

/-- The sample is captured at accept: the frame cannot change during the transaction (10 R21). -/
def Obligations.FrameIsCaptured : Prop :=
  ∀ s t : State, s.dacx.hsq ≠ .idle → step s = .next t → t.dacx.frame = s.dacx.frame

/-- The serial control register changes only in a step that runs DAC.INIT (10 R37). -/
def Obligations.SerialControlWrittenByInitAlone : Prop :=
  ∀ s t : State, step s = .next t → t.dacx.sbc ≠ s.dacx.sbc →
    ∃ w, s.port = some w ∧ decode w = .ok .dacInit

/-- The frame of the two steps that run the DAC commands, DAC.INIT's configuration step (40 R101) and DAC.WRITE's
accept step `Idle → Selected` (40 R104), and of no later step of either operation: no cell, no LCD field, not `DATA`,
`SHREG`, `SHIFTING`, `SBS.XFER_DONE` or `REFUSED`, no draw, not the port or the list; the configuration step leaves `HSQ` and `FRAME`, the accept step leaves `SBC` and the
ghost flag. What the whole operations change is in `WriteSendsBothBytes` and `InitSendsTheZeroFrame`. -/
def Obligations.DacOperationsFrame : Prop :=
  (∀ s t : State, exec .dacInit s = .next t →
    (∀ a, t.lcdx.cells.read a = s.lcdx.cells.read a) ∧ t.lcdx.lcr = s.lcdx.lcr ∧
    t.lcdx.lcdInited = s.lcdx.lcdInited ∧ t.dacx.hsq = s.dacx.hsq ∧ t.dacx.frame = s.dacx.frame ∧
    t.dacx.data = s.dacx.data ∧ t.dacx.shreg = s.dacx.shreg ∧ t.dacx.shifting = s.dacx.shifting ∧
    t.dacx.xferDone = s.dacx.xferDone ∧ t.env = s.env ∧ t.port = s.port ∧ t.script = s.script ∧
    t.refused = s.refused) ∧
  (∀ (s t : State) (v : Sample), exec (.dacWrite v) s = .next t →
    (∀ a, t.lcdx.cells.read a = s.lcdx.cells.read a) ∧ t.lcdx.lcr = s.lcdx.lcr ∧
    t.lcdx.lcdInited = s.lcdx.lcdInited ∧ t.dacx.sbc = s.dacx.sbc ∧ t.dacx.dacInited = s.dacx.dacInited ∧
    t.dacx.initRunning = s.dacx.initRunning ∧
    t.dacx.data = s.dacx.data ∧ t.dacx.shreg = s.dacx.shreg ∧ t.dacx.shifting = s.dacx.shifting ∧
    t.dacx.xferDone = s.dacx.xferDone ∧ t.env = s.env ∧ t.port = s.port ∧ t.script = s.script ∧
    t.refused = s.refused)

/-! ## LCDX -/

/-- LCD.INIT's word and its whole effect, in every state (41 R131). -/
def Obligations.LcdInitEffect : Prop :=
  encode .lcdInit = 0x40000 ∧
  ∀ s : State, ∃ m : Memory,
    exec .lcdInit s = .next { s with
      lcdx := {
        cells := m
        lcr := {
          en := 1, wave := Config.lcdInit.wave, bias := Config.lcdInit.bias, duty := Config.lcdInit.duty
          segcnt := Config.lcdInit.segcnt, presc := Config.lcdInit.presc, drive := Config.lcdInit.drive
          irq := Config.lcdInit.irq, xclk := Config.lcdInit.xclk, clkdiv := Config.lcdInit.clkdiv }
        lcdInited := true }
      trace := s.trace ++ [.resp .lcdInit .done] } ∧
    (∀ (k : Fin 4) (p : Fin 3), m.read (3 * k.val + p.val) = some 0x00) ∧
    (∀ a, 12 ≤ a → m.read a = s.lcdx.cells.read a)

/-- The glyph table, the seven open patterns by their names, and its domain (41 R133, R134). -/
def Obligations.GlyphTable : Prop :=
  glyph 0x20 = some 0x0000 ∧ glyph 0x30 = some 0x1551 ∧ glyph 0x31 = some 0x0110 ∧
  glyph 0x32 = some Config.seg2 ∧ glyph 0x33 = some Config.seg3 ∧ glyph 0x34 = some Config.seg4 ∧
  glyph 0x35 = some Config.seg5 ∧ glyph 0x36 = some Config.seg6 ∧ glyph 0x37 = some Config.seg7 ∧
  glyph 0x38 = some Config.seg8 ∧ glyph 0x39 = some 0x0B51 ∧
  ∀ c : Byte, (∃ s, glyph c = some s) ↔ c = 0x20 ∨ (0x30 ≤ c.toNat ∧ c.toNat ≤ 0x39)

/-- LCD.C2S: its word; the response carries the pattern or the error; nothing else changes (41 R132). -/
def Obligations.C2sResult : Prop :=
  ∀ (s : State) (c : Byte),
    encode (.lcdC2s c) = 0x50000 ||| (c.setWidth 20 <<< 8) ∧
    (∀ pat, glyph c = some pat →
      exec (.lcdC2s c) s = .next { s with trace := s.trace ++ [.resp .lcdC2s (.pattern pat)] }) ∧
    (glyph c = none →
      exec (.lcdC2s c) s = .next { s with trace := s.trace ++ [.resp .lcdC2s (.error .invalidCharacter)] })

/-- LCD.P2R: its word; the response carries the register or the error; nothing else changes (41 R135). -/
def Obligations.P2rResult : Prop :=
  ∀ (s : State) (pos : Int),
    encode (.lcdP2r pos) = 0x60000 ||| (BitVec.ofInt 8 pos).setWidth 20 ∧
    (2 ≤ pos ∧ pos ≤ 7 → ∃ (p : Fin 3) (side : NibbleSide),
      (p.val : Int) = pos / 2 - 1 ∧ (side = .low ↔ pos % 2 = 0) ∧
      exec (.lcdP2r pos) s = .next { s with trace := s.trace ++ [.resp .lcdP2r (.reg p side)] }) ∧
    (pos < 2 ∨ 7 < pos →
      exec (.lcdP2r pos) s = .next { s with trace := s.trace ++ [.resp .lcdP2r (.error .invalidPosition)] })

/-- The position mapper over all integers: its formulas on 2 to 7, invalid elsewhere, and one-to-one onto the
six (plane, side) pairs (41 R136). -/
def Obligations.PositionMapper : Prop :=
  (∀ pos : Int, 2 ≤ pos ∧ pos ≤ 7 → ∃ (p : Fin 3) (side : NibbleSide),
    positionToRegister pos = some (p, side) ∧ (p.val : Int) = pos / 2 - 1 ∧ (side.code.toNat : Int) = pos % 2) ∧
  (∀ pos : Int, pos < 2 ∨ 7 < pos → positionToRegister pos = none) ∧
  (∀ (p : Fin 3) (side : NibbleSide), ∃ pos : Int, positionToRegister pos = some (p, side) ∧
    ∀ pos', positionToRegister pos' = some (p, side) → pos' = pos)

/-- The read-modify-write: the targeted nibble replaced, the other one kept, no other cell changed (41 R137). -/
def Obligations.RmwReplacesOneNibble : Prop :=
  ∀ (s : State) (k : Fin 4) (p : Fin 3) (n : Nibble) (side : NibbleSide), ∃ (m : Memory) (old new : Byte),
      rmw k p side n s = .next { s with lcdx := { s.lcdx with cells := m } } ∧
      s.lcdx.cells.read (3 * k.val + p.val) = some old ∧
      m.read (3 * k.val + p.val) = some new ∧
      (side = .low → new = (old &&& 0xF0) ||| n.setWidth 8) ∧
      (side = .high → new = (old &&& 0x0F) ||| (n.setWidth 8 <<< 4)) ∧
      nibbleOf new side = n ∧ nibbleOf new side.other = nibbleOf old side.other ∧
      ∀ a, a ≠ 3 * k.val + p.val → m.read a = s.lcdx.cells.read a

/-- A successful LCD.WRITE: the four nibbles of the position hold the pattern, the neighbour's are unchanged,
the eight other cells are unchanged, and nothing else but the response (41 R138, R142). -/
def Obligations.WriteShowsTheCharacter : Prop :=
  ∀ (s : State) (c : Byte) (pos : Int) (pat : Pattern), s.lcdx.lcdInited = true →
    glyph c = some pat → 2 ≤ pos ∧ pos ≤ 7 →
    ∃ m : Memory, exec (.lcdWrite c pos) s = .next { s with
        lcdx := { s.lcdx with cells := m }
        trace := s.trace ++ [.resp .lcdWrite .done] } ∧
      (∀ k : Fin 4, ∃ old new, s.lcdx.cells.read (3 * k.val + (pos / 2 - 1).toNat) = some old ∧
        m.read (3 * k.val + (pos / 2 - 1).toNat) = some new ∧
        nibbleOf new (if pos % 2 = 0 then .low else .high) = pat.extractLsb' (4 * k.val) 4 ∧
        nibbleOf new (if pos % 2 = 0 then .high else .low) = nibbleOf old (if pos % 2 = 0 then .high else .low)) ∧
      (∀ a, (∀ k : Fin 4, a ≠ 3 * k.val + (pos / 2 - 1).toNat) → m.read a = s.lcdx.cells.read a)

/-- A failed LCD.WRITE: the error or errors go to the sink, the response is `done`, nothing else changes. With
both operands invalid it is one of the four reports, at least one event in each (41 R139, R140). -/
def Obligations.InvalidWriteOnlyReports : Prop :=
  ∀ (s : State) (c : Byte) (pos : Int), s.lcdx.lcdInited = true →
    (glyph c = none → 2 ≤ pos ∧ pos ≤ 7 → exec (.lcdWrite c pos) s =
      .next { s with trace := s.trace ++ [.err .invalidCharacter, .resp .lcdWrite .done] }) ∧
    (∀ pat, glyph c = some pat → pos < 2 ∨ 7 < pos → exec (.lcdWrite c pos) s =
      .next { s with trace := s.trace ++ [.err .invalidPosition, .resp .lcdWrite .done] }) ∧
    (glyph c = none → pos < 2 ∨ 7 < pos → ∃ codes : List ErrorCode,
      codes = (match Config.bothInvalidReport with
        | .charOnly => [.invalidCharacter]
        | .posOnly => [.invalidPosition]
        | .charThenPos => [.invalidCharacter, .invalidPosition]
        | .posThenChar => [.invalidPosition, .invalidCharacter]) ∧ codes ≠ [] ∧
      exec (.lcdWrite c pos) s =
        .next { s with trace := s.trace ++ codes.map Event.err ++ [.resp .lcdWrite .done] })

/-- Admission of the LCD operations, in every state and whatever the operands (41 R145). -/
def Obligations.LcdAdmission : Prop :=
  ∀ (s : State) (c : Byte) (pos : Int),
    (∃ t, exec .lcdInit s = .next t) ∧ (∃ t, exec (.lcdC2s c) s = .next t) ∧
    (∃ t, exec (.lcdP2r pos) s = .next t) ∧
    (s.lcdx.lcdInited = false → exec (.lcdWrite c pos) s = .refused .lcdNotInitialised) ∧
    (s.lcdx.lcdInited = true → ∃ t, exec (.lcdWrite c pos) s = .next t)

/-- Use before INIT is refused at the command port (70 R186). -/
def Obligations.UseBeforeInitRefused : Prop :=
  ∀ (s : State) (w : CommandWord), s.refused = false → s.dacOutstanding = false → s.port = some w →
    (∀ v, decode w = .ok (.dacWrite v) → s.dacx.dacInited = false → step s = .refused .dacNotInitialised) ∧
    (∀ c pos, decode w = .ok (.lcdWrite c pos) → s.lcdx.lcdInited = false →
      step s = .refused .lcdNotInitialised)

/-- Idempotence: the same LCD.WRITE twice leaves the registers as after the first, and a later write to the
same position replaces the earlier one wholly (41 R143). -/
def Obligations.WritingTwiceIsWritingOnce : Prop :=
  ∀ (s : State) (c c' : Byte) (pos : Int), LcdInv s.lcdx → s.lcdx.lcdInited = true →
    ∃ a b, exec (.lcdWrite c pos) s = .next a ∧ exec (.lcdWrite c pos) a = .next b ∧
      b.lcdx = a.lcdx ∧ b.dacx = a.dacx ∧
      ((∃ pat, glyph c = some pat) → ∃ d e, exec (.lcdWrite c' pos) s = .next d ∧
        exec (.lcdWrite c pos) d = .next e ∧ e.lcdx = a.lcdx)

/-- Writes to different positions commute (41 R142). -/
def Obligations.WritesToDifferentPositionsCommute : Prop :=
  ∀ (s : State) (c₁ c₂ : Byte) (pos₁ pos₂ : Int), LcdInv s.lcdx → s.lcdx.lcdInited = true →
    pos₁ ≠ pos₂ → 2 ≤ pos₁ ∧ pos₁ ≤ 7 → 2 ≤ pos₂ ∧ pos₂ ≤ 7 →
    (∃ s₁, glyph c₁ = some s₁) → (∃ s₂, glyph c₂ = some s₂) →
    ∃ a t b u, exec (.lcdWrite c₁ pos₁) s = .next a ∧ exec (.lcdWrite c₂ pos₂) a = .next t ∧
      exec (.lcdWrite c₂ pos₂) s = .next b ∧ exec (.lcdWrite c₁ pos₁) b = .next u ∧ t.lcdx = u.lcdx

/-- The frame of the four LCD operations: nothing of DACX, no draw, no port; the lookups no register at all;
LCD.WRITE no control field and no cell but the four of the position the mapper gives, none where it gives
none (41 R132, R135, R137, R139). -/
def Obligations.LcdOperationsFrame : Prop :=
  (∀ (i : Instr) (s t : State), isLcd i = true → exec i s = .next t →
    t.dacx = s.dacx ∧ t.env = s.env ∧ t.port = s.port ∧ t.script = s.script ∧ t.refused = s.refused) ∧
  (∀ (s t : State) (c : Byte), exec (.lcdC2s c) s = .next t → t.lcdx = s.lcdx) ∧
  (∀ (s t : State) (pos : Int), exec (.lcdP2r pos) s = .next t → t.lcdx = s.lcdx) ∧
  (∀ (s t : State) (c : Byte) (pos : Int), exec (.lcdWrite c pos) s = .next t →
    t.lcdx.lcr = s.lcdx.lcr ∧ t.lcdx.lcdInited = s.lcdx.lcdInited ∧
    (∀ p side, positionToRegister pos = some (p, side) →
      ∀ a, (∀ k : Fin 4, a ≠ cellIndex k p) → t.lcdx.cells.read a = s.lcdx.cells.read a) ∧
    (positionToRegister pos = none ∨ glyph c = none → t.lcdx.cells = s.lcdx.cells))

/-! ## The whole machine -/

/-- The two sub-blocks share no state: no operation or turn of one writes the other's state, and none reads
it, since putting any other value there changes nothing else of the next state (00_scope.md R2). -/
def Obligations.SubBlocksShareNothing : Prop :=
  (∀ (i : Instr) (s t : State) (d : Dacx), isLcd i = true → exec i s = .next t →
    t.dacx = s.dacx ∧ exec i { s with dacx := d } = .next { t with dacx := d }) ∧
  (∀ (i : Instr) (s t : State) (l : Lcdx), isLcd i = false → exec i s = .next t →
    t.lcdx = s.lcdx ∧ exec i { s with lcdx := l } = .next { t with lcdx := l }) ∧
  (∀ (s t : State) (l : Lcdx), engineTurn s = .next t →
    t.lcdx = s.lcdx ∧ engineTurn { s with lcdx := l } = .next { t with lcdx := l })

/-- A step of one sub-block commutes with a step of the other: the same registers and the same order of
events in each (20 R73). -/
def Obligations.SubBlockStepsCommute : Prop :=
  ∀ (i : Instr) (s a b : State), isLcd i = true → engineTurn s = .next a → exec i s = .next b →
    ∃ c d, exec i a = .next c ∧ engineTurn b = .next d ∧ c.dacx = d.dacx ∧ c.lcdx = d.lcdx ∧
      c.trace.filter Event.isLcd = d.trace.filter Event.isLcd ∧
      c.trace.filter (fun e => !e.isLcd) = d.trace.filter (fun e => !e.isLcd)

/-- The reset values the spec states (70 R181 to R183). That each cell, which R182 leaves unspecified, holds a free
value at reset is the model's choice (log entry 3). The port, the host's list and the environment at reset are the
model's choice too (log entries 2, 7, 12) and are not stated here. -/
def Obligations.ResetValues : Prop :=
  State.reset.dacx.hsq = .idle ∧ State.reset.dacx.shifting = false ∧ State.reset.dacx.xferDone = false ∧
  State.reset.dacx.dacInited = false ∧ State.reset.lcdx.lcdInited = false ∧
  (∀ a, a < 12 → State.reset.lcdx.cells.read a = some (Config.resetCell a)) ∧
  (∀ a, 12 ≤ a → State.reset.lcdx.cells.read a = none) ∧ State.reset.refused = false ∧ State.reset.trace = []

/-- DACX's invariant holds at reset. That no DAC.INIT is under way there (`initRunning`) is the model's choice (log
entry 2). -/
def Obligations.DacInvAtReset : Prop := DacInv State.reset.dacx

/-- Every step keeps DACX's invariant, from every state that has it: among the rest, a transfer is in flight
only during a wait (40 R113), chip-select is low throughout a transaction (70 R194), the serial control
register keeps DAC.INIT's values (10 R37), the byte in flight is the frame's (40 R112). -/
def Obligations.StepKeepsDacInv : Prop :=
  ∀ s t : State, DacInv s.dacx → step s = .next t → DacInv t.dacx

/-- LCDX's invariant holds at reset. That the memory lists the twelve cells there is the model's choice (log
entry 3). -/
def Obligations.LcdInvAtReset : Prop := LcdInv State.reset.lcdx

/-- Every step keeps LCDX's invariant: the memory's canonical form, which is all twelve cells and no other
(20 R62), and the control fields LCD.INIT's once it has been given (10 R41). -/
def Obligations.StepKeepsLcdInv : Prop :=
  ∀ s t : State, LcdInv s.lcdx → step s = .next t → LcdInv t.lcdx

/-- The trace at reset follows the bus protocol. -/
def Obligations.BusProtocolAtReset : Prop := BusInv State.reset

/-- Every step keeps the bus protocol: two bytes of one frame, upper byte first, inside each low period of
chip-select, never one alone and never a third, nothing outside (70 R194, 20 R72). -/
def Obligations.StepKeepsBusProtocol : Prop :=
  ∀ s t : State, DacInv s.dacx → BusInv s → step s = .next t → BusInv t

/-- `HostInv` holds at reset: if an operation is outstanding, nothing is at the port. The values of `initRunning`
and of the port at reset, on which this rests, are the model's choice (log entry 2). -/
def Obligations.HostInvAtReset : Prop := HostInv State.reset

/-- Every step keeps the host to one command at a time (70 R190). -/
def Obligations.StepKeepsHostInv : Prop :=
  ∀ s t : State, HostInv s → step s = .next t → HostInv t

/-- A run of one caller is refused for nothing but a reserved word or a WRITE before its INIT: never for a
second command, a busy sequencer or a load in flight (40 R113, 70 R190). -/
def Obligations.SingleCallerIsRefusedForNothingElse : Prop :=
  ∀ (s : State) (r : Refusal), DacInv s.dacx → HostInv s → s.refused = false → step s = .refused r →
    (∃ why, r = .reservedWord why) ∨ r = .dacNotInitialised ∨ r = .lcdNotInitialised

/-- No step faults, in any state: no operation forms a cell index that does not exist (20 R66). -/
def Obligations.NoStepFaults : Prop :=
  ∀ (s : State) (f : Fault), step s ≠ .fault f

/-- "No operation other than LCD.INIT and LCD.WRITE writes a cell, and no DACX step touches one" (10 R27). -/
def Obligations.CellsWrittenByLcdInitAndWriteAlone : Prop :=
  ∀ s t : State, step s = .next t → (∃ a, t.lcdx.cells.read a ≠ s.lcdx.cells.read a) →
    ∃ w, s.port = some w ∧ (decode w = .ok .lcdInit ∨ ∃ c pos, decode w = .ok (.lcdWrite c pos))

/-- The trace is history: a step only appends to it, and no rule reads it (10 R46). -/
def Obligations.TraceIsHistory : Prop :=
  ∀ (s t : State) (tr : List Event), step s = .next t → ∃ es : List Event,
    t.trace = s.trace ++ es ∧ step { s with trace := tr } = .next { t with trace := tr ++ es }
end

