-- ==== Sys2Proof/Laws/Decode.lean ====
section
/-!
SUPPORT. The fields of a command word, the words of commands and the table's masks as numbers, so that facts
about encodings are arithmetic.
-/

namespace Sys2Proof

/-! ## Fields -/

theorem opField_toNat (w : CommandWord) : (opField w).toNat = w.toNat / 65536 := by
  have := w.isLt
  simp only [opField, BitVec.extractLsb'_toNat, Nat.shiftRight_eq_div_pow]
  omega

theorem argField_toNat (w : CommandWord) : (argField w).toNat = w.toNat % 65536 := by
  simp [argField, BitVec.extractLsb'_toNat]

theorem aboveSampleField_toNat (w : CommandWord) : (aboveSampleField w).toNat = w.toNat / 4096 % 16 := by
  simp [aboveSampleField, BitVec.extractLsb'_toNat, Nat.shiftRight_eq_div_pow]

theorem valueField_toNat (w : CommandWord) : (valueField w).toNat = w.toNat % 4096 := by
  simp [valueField, BitVec.extractLsb'_toNat]

theorem charField_toNat (w : CommandWord) : (charField w).toNat = w.toNat / 256 % 256 := by
  simp [charField, BitVec.extractLsb'_toNat, Nat.shiftRight_eq_div_pow]

theorem posField_toNat (w : CommandWord) : (posField w).toNat = w.toNat % 256 := by
  simp [posField, BitVec.extractLsb'_toNat]

/-! ## Words -/

/-- Two words with no bit in common are OR-ed by adding. -/
theorem or_toNat_of_disjoint {n : Nat} {a b : BitVec n} (h : a &&& b = 0) (hlt : a.toNat + b.toNat < 2 ^ n) :
    (a ||| b).toNat = a.toNat + b.toNat := by
  rw [← BitVec.add_eq_or_of_and_eq_zero a b (by simpa using h), BitVec.toNat_add, Nat.mod_eq_of_lt hlt]

theorem encode_dacWrite_toNat (v : Sample) : (encode (.dacWrite v)).toNat = 0x20000 + v.toNat := by
  have hv := v.isLt
  have e : (v.setWidth 20).toNat = v.toNat := by rw [BitVec.toNat_setWidth]; omega
  have h := or_toNat_of_disjoint (a := 0x20000#20) (b := v.setWidth 20)
    (by apply BitVec.eq_of_getLsbD_eq; intro i hi; interval_cases i <;> simp) (by rw [e, BitVec.toNat_ofNat]; omega)
  rw [e] at h
  exact h

theorem encode_lcdC2s_toNat (c : Byte) : (encode (.lcdC2s c)).toNat = 0x50000 + 256 * c.toNat := by
  have hc := c.isLt
  have e : (c.setWidth 20 <<< 8).toNat = 256 * c.toNat := by
    rw [BitVec.toNat_shiftLeft, BitVec.toNat_setWidth, Nat.shiftLeft_eq]; omega
  have h := or_toNat_of_disjoint (a := 0x50000#20) (b := c.setWidth 20 <<< 8)
    (by apply BitVec.eq_of_getLsbD_eq; intro i hi; interval_cases i <;> simp) (by rw [e, BitVec.toNat_ofNat]; omega)
  rw [e] at h
  exact h

theorem encode_lcdP2r_toNat (pos : Int) : (encode (.lcdP2r pos)).toNat = 0x60000 + (fieldOfPos pos).toNat := by
  have hp := (fieldOfPos pos).isLt
  have e : ((fieldOfPos pos).setWidth 20).toNat = (fieldOfPos pos).toNat := by rw [BitVec.toNat_setWidth]; omega
  have h := or_toNat_of_disjoint (a := 0x60000#20) (b := (fieldOfPos pos).setWidth 20)
    (by apply BitVec.eq_of_getLsbD_eq; intro i hi; interval_cases i <;> simp) (by rw [e, BitVec.toNat_ofNat]; omega)
  rw [e] at h
  exact h

theorem encode_lcdWrite_toNat (c : Byte) (pos : Int) :
    (encode (.lcdWrite c pos)).toNat = 0x70000 + 256 * c.toNat + (fieldOfPos pos).toNat := by
  have hc := c.isLt
  have hp := (fieldOfPos pos).isLt
  have e₁ : (c.setWidth 20 <<< 8).toNat = 256 * c.toNat := by
    rw [BitVec.toNat_shiftLeft, BitVec.toNat_setWidth, Nat.shiftLeft_eq]; omega
  have e₂ : ((fieldOfPos pos).setWidth 20).toNat = (fieldOfPos pos).toNat := by rw [BitVec.toNat_setWidth]; omega
  have h₁ := or_toNat_of_disjoint (a := 0x70000#20) (b := c.setWidth 20 <<< 8)
    (by apply BitVec.eq_of_getLsbD_eq; intro i hi; interval_cases i <;> simp) (by rw [e₁, BitVec.toNat_ofNat]; omega)
  have h₂ := or_toNat_of_disjoint (a := 0x70000#20 ||| c.setWidth 20 <<< 8) (b := (fieldOfPos pos).setWidth 20)
    (by apply BitVec.eq_of_getLsbD_eq; intro i hi; interval_cases i <;> simp)
    (by rw [h₁, e₁, e₂, BitVec.toNat_ofNat]; omega)
  rw [h₁, e₁, e₂] at h₂
  exact h₂

/-! ## Positions -/

/-- An 8-bit field read as a position is encodable. -/
theorem posEncodable_posOfField (b : Byte) : posEncodable (posOfField b) := by
  have := b.isLt
  simp only [posEncodable, posOfField, Int.ofNat_eq_natCast]
  omega

@[simp] theorem fieldOfPos_posOfField (b : Byte) : fieldOfPos (posOfField b) = b := by
  simp [fieldOfPos, posOfField]

theorem posOfField_fieldOfPos {pos : Int} (h : posEncodable pos) : posOfField (fieldOfPos pos) = pos := by
  simp only [posOfField, fieldOfPos, BitVec.toNat_ofInt, Int.ofNat_eq_natCast]
  omega

/-! ## Masks -/

/-- A mask that keeps the bits from `k` on. -/
theorem and_high_toNat (w m : CommandWord) (k : Nat) (h : w &&& m = (w >>> k) <<< k) :
    (w &&& m).toNat = w.toNat / 2 ^ k * 2 ^ k := by
  have hw := w.isLt
  have hle : w.toNat / 2 ^ k * 2 ^ k ≤ w.toNat := Nat.div_mul_le_self _ _
  rw [h, BitVec.toNat_shiftLeft, BitVec.toNat_ushiftRight, Nat.shiftLeft_eq, Nat.shiftRight_eq_div_pow,
    Nat.mod_eq_of_lt (by omega)]

theorem mask_N_toNat (w : CommandWord) : (w &&& 0xFFFFF).toNat = w.toNat := by
  have := and_high_toNat w 0xFFFFF 0 (by apply BitVec.eq_of_getLsbD_eq; intro i hi; interval_cases i <;> simp)
  simpa using this

theorem mask_V_toNat (w : CommandWord) : (w &&& 0xFF000).toNat = w.toNat / 4096 * 4096 :=
  and_high_toNat w 0xFF000 12 (by apply BitVec.eq_of_getLsbD_eq; intro i hi; interval_cases i <;> simp)

theorem mask_P_toNat (w : CommandWord) : (w &&& 0xFFF00).toNat = w.toNat / 256 * 256 :=
  and_high_toNat w 0xFFF00 8 (by apply BitVec.eq_of_getLsbD_eq; intro i hi; interval_cases i <;> simp)

theorem mask_CP_toNat (w : CommandWord) : (w &&& 0xF0000).toNat = w.toNat / 65536 * 65536 :=
  and_high_toNat w 0xF0000 16 (by apply BitVec.eq_of_getLsbD_eq; intro i hi; interval_cases i <;> simp)

theorem mask_C_toNat (w : CommandWord) : (w &&& 0xF00FF).toNat = w.toNat / 65536 * 65536 + w.toNat % 256 := by
  have hw := w.isLt
  have hl : (w &&& 0x000FF).toNat = w.toNat % 256 := by
    rw [BitVec.toNat_and]
    exact Nat.and_two_pow_sub_one_eq_mod w.toNat 8
  have e : w &&& 0xF00FF = (w &&& 0xF0000) ||| (w &&& 0x000FF) := by
    apply BitVec.eq_of_getLsbD_eq; intro i hi; interval_cases i <;> simp
  rw [e, or_toNat_of_disjoint, mask_CP_toNat, hl]
  · apply BitVec.eq_of_getLsbD_eq; intro i hi; interval_cases i <;> simp
  · rw [mask_CP_toNat, hl]; omega

end Sys2Proof
end

