-- ==== Sys2Proof/Laws/Memory.lean ====
section
/-!
SUPPORT. The laws of the display-data space: a read after a write, and the canonical form that every memory
operation keeps.
-/

namespace Sys2Proof.Machine

/-! ## Reading after writing -/

/-- A cell holds what was written to it, and "a write to one cell changes no other cell" (20_memory.md R62). -/
theorem Memory.lookup_write (m : Memory) (a b : Nat) (v : Byte) :
    (m.write a v).lookup b = if b = a then v else m.lookup b := by
  induction m with
  | nil => simp only [Memory.write, Memory.lookup, eq_comm (a := a)]
  | cons e rest ih =>
    obtain ⟨c, w⟩ := e
    by_cases h1 : a < c
    · by_cases h : b = a
      · simp [Memory.write, Memory.lookup, h1, h]
      · have h' : ¬ a = b := fun e => h e.symm
        simp [Memory.write, Memory.lookup, h1, h, h']
    · by_cases h2 : a = c
      · subst h2
        by_cases h : b = a
        · simp [Memory.write, Memory.lookup, h]
        · have h' : ¬ a = b := fun e => h e.symm
          simp [Memory.write, Memory.lookup, h, h']
      · by_cases h3 : c = b
        · subst h3
          have h' : ¬ c = a := fun e => h2 e.symm
          simp [Memory.write, Memory.lookup, h1, h2, h']
        · simp [Memory.write, Memory.lookup, h1, h2, h3, ih]

@[simp] theorem Memory.lookup_write_same (m : Memory) (a : Nat) (v : Byte) : (m.write a v).lookup a = v := by
  simp [Memory.lookup_write]

theorem Memory.lookup_write_other (m : Memory) {a b : Nat} (v : Byte) (h : b ≠ a) :
    (m.write a v).lookup b = m.lookup b := by
  simp [Memory.lookup_write, h]

/-- A cell that exists holds a byte. -/
theorem Memory.read_eq (m : Memory) {a : Nat} (ha : a < cellCount) : m.read a = some (m.lookup a) := by
  simp [Memory.read, ha]

/-- An index of 12 or above reads as nothing. -/
theorem Memory.read_above (m : Memory) {a : Nat} (ha : cellCount ≤ a) : m.read a = none := by
  simp [Memory.read, Nat.not_lt.mpr ha]

/-- A write leaves what every other index reads as. -/
theorem Memory.read_write_other (m : Memory) {a b : Nat} (v : Byte) (h : b ≠ a) :
    (m.write a v).read b = m.read b := by
  simp [Memory.read, Memory.lookup_write_other m v h]

/-- A cell that exists reads as what was written to it. -/
theorem Memory.read_write_same (m : Memory) {a : Nat} (v : Byte) (ha : a < cellCount) :
    (m.write a v).read a = some v := by
  simp [Memory.read, ha]

/-! ## The canonical form -/

/-- A write of a cell at or above `lo` keeps the form from `lo` on. -/
theorem Memory.wfFrom_write (m : Memory) (lo a : Nat) (v : Byte) (h : m.wfFrom lo = true) (hlo : lo ≤ a)
    (ha : a < cellCount) : (m.write a v).wfFrom lo = true := by
  induction m generalizing lo with
  | nil => simp only [Memory.wfFrom, decide_eq_true_eq] at h; omega
  | cons e rest ih =>
    obtain ⟨b, w⟩ := e
    simp only [Memory.wfFrom, Bool.and_eq_true, decide_eq_true_eq] at h
    obtain ⟨rfl, h2⟩ := h
    by_cases c : a = b
    · subst c; simp [Memory.write, Memory.wfFrom, h2]
    · have := ih (b + 1) h2 (by omega)
      simp [Memory.write, Nat.not_lt.mpr hlo, c, Memory.wfFrom, this]

/-- Every write of a cell that exists keeps the canonical form. -/
theorem Memory.wf_write (m : Memory) (a : Nat) (v : Byte) (h : m.wf = true) (ha : a < cellCount) :
    (m.write a v).wf = true :=
  Memory.wfFrom_write m 0 a v h (Nat.zero_le _) ha

/-- The form cannot start above the last cell. -/
theorem Memory.wfFrom_le (m : Memory) (lo : Nat) (h : m.wfFrom lo = true) : lo ≤ cellCount := by
  induction m generalizing lo with
  | nil => simp only [Memory.wfFrom, decide_eq_true_eq] at h; omega
  | cons e rest ih =>
    obtain ⟨b, w⟩ := e
    simp only [Memory.wfFrom, Bool.and_eq_true, decide_eq_true_eq] at h
    have := ih (lo + 1) h.2
    omega

/-- Two memories of the form from `lo` on that hold the same bytes there are the same list. -/
theorem Memory.ext_wfFrom (m₁ m₂ : Memory) (lo : Nat) (h₁ : m₁.wfFrom lo = true) (h₂ : m₂.wfFrom lo = true)
    (h : ∀ a, lo ≤ a → a < cellCount → m₁.lookup a = m₂.lookup a) : m₁ = m₂ := by
  induction m₁ generalizing lo m₂ with
  | nil =>
    cases m₂ with
    | nil => rfl
    | cons e rest =>
      simp only [Memory.wfFrom, Bool.and_eq_true, decide_eq_true_eq] at h₁ h₂
      have := Memory.wfFrom_le rest _ h₂.2
      omega
  | cons e₁ rest₁ ih =>
    obtain ⟨b₁, w₁⟩ := e₁
    cases m₂ with
    | nil =>
      simp only [Memory.wfFrom, Bool.and_eq_true, decide_eq_true_eq] at h₁ h₂
      have := Memory.wfFrom_le rest₁ _ h₁.2
      omega
    | cons e₂ rest₂ =>
      obtain ⟨b₂, w₂⟩ := e₂
      simp only [Memory.wfFrom, Bool.and_eq_true, decide_eq_true_eq] at h₁ h₂
      obtain ⟨rfl, h₁⟩ := h₁
      obtain ⟨rfl, h₂⟩ := h₂
      have hlt := Memory.wfFrom_le rest₁ _ h₁
      have hw : w₁ = w₂ := by simpa [Memory.lookup] using h b₂ (Nat.le_refl _) hlt
      subst hw
      congr 1
      refine ih rest₂ (b₂ + 1) h₁ h₂ fun a ha hac => ?_
      have hne : ¬ b₂ = a := by omega
      simpa [Memory.lookup, hne] using h a (by omega) hac

/-- Equal memories are equal data: in canonical form, the same reads mean the same list. -/
theorem Memory.ext_wf (m₁ m₂ : Memory) (h₁ : m₁.wf = true) (h₂ : m₂.wf = true)
    (h : ∀ a, m₁.read a = m₂.read a) : m₁ = m₂ :=
  Memory.ext_wfFrom m₁ m₂ 0 h₁ h₂ fun a _ ha => by simpa [Memory.read, ha] using h a

/-- The memory at reset has the canonical form. -/
theorem Memory.wf_reset : Memory.reset.wf = true := rfl

/-- Each cell holds its free value at reset. -/
@[simp] theorem Memory.lookup_reset (a : Nat) : Memory.reset.lookup a = Config.resetCell a := by
  have key : ∀ l : List Nat, Memory.lookup (l.map fun a => (a, Config.resetCell a)) a = Config.resetCell a := by
    intro l
    induction l with
    | nil => rfl
    | cons b rest ih =>
      by_cases h : b = a
      · simp [Memory.lookup, h]
      · simpa [Memory.lookup, h] using ih
  exact key _

/-! ## All twelve cells zero -/

/-- What zeroing a list of cells makes each cell hold. -/
theorem Memory.lookup_zeroList (l : List Nat) (m : Memory) (b : Nat) :
    (l.foldl (fun m a => m.write a 0x00) m).lookup b = if b ∈ l then 0x00 else m.lookup b := by
  induction l generalizing m with
  | nil => simp
  | cons a rest ih =>
    rw [List.foldl_cons, ih, Memory.lookup_write]
    by_cases h1 : b ∈ rest <;> by_cases h2 : b = a <;> simp [h1, h2]

/-- After zeroing, the twelve cells read zero and nothing else is touched. -/
theorem Memory.read_zeroAll (m : Memory) (b : Nat) :
    m.zeroAll.read b = if b < cellCount then some 0x00 else m.read b := by
  by_cases hb : b < cellCount
  · have h := Memory.lookup_zeroList (List.range cellCount) m b
    simp only [List.mem_range, hb, if_true] at h
    simp only [Memory.read, hb, if_true, Memory.zeroAll, h]
  · simp [Memory.read, hb]

/-- Zeroing keeps the canonical form. -/
theorem Memory.wf_zeroAll (m : Memory) (h : m.wf = true) : m.zeroAll.wf = true := by
  have key : ∀ (l : List Nat) (m : Memory), m.wf = true → (∀ a ∈ l, a < cellCount) →
      Memory.wf (l.foldl (fun m a => m.write a 0x00) m) = true := by
    intro l
    induction l with
    | nil => intro m h _; exact h
    | cons a rest ih =>
      intro m h hl
      exact ih _ (Memory.wf_write m a _ h (hl a (by simp))) fun b hb => hl b (by simp [hb])
  exact key _ _ h (by simp)

end Sys2Proof.Machine
end

