-- ==== Sys2Proof/Laws/State.lean ====
section
/-!
SUPPORT. One lemma per field per named update: what the update makes of the field. All are true by unfolding
the update, and all are simp lemmas.
-/

namespace Sys2Proof.Machine

/-! ## `setXferDone` -/

@[simp] theorem State.setXferDone_lcdx (s : State) (b : Bool) : (s.setXferDone b).lcdx = s.lcdx := rfl
@[simp] theorem State.setXferDone_refused (s : State) (b : Bool) : (s.setXferDone b).refused = s.refused := rfl
@[simp] theorem State.setXferDone_trace (s : State) (b : Bool) : (s.setXferDone b).trace = s.trace := rfl
@[simp] theorem State.setXferDone_port (s : State) (b : Bool) : (s.setXferDone b).port = s.port := rfl
@[simp] theorem State.setXferDone_script (s : State) (b : Bool) : (s.setXferDone b).script = s.script := rfl
@[simp] theorem State.setXferDone_env (s : State) (b : Bool) : (s.setXferDone b).env = s.env := rfl
@[simp] theorem State.setXferDone_hsq (s : State) (b : Bool) : (s.setXferDone b).dacx.hsq = s.dacx.hsq := rfl
@[simp] theorem State.setXferDone_frame (s : State) (b : Bool) : (s.setXferDone b).dacx.frame = s.dacx.frame := rfl
@[simp] theorem State.setXferDone_csN (s : State) (b : Bool) : (s.setXferDone b).dacx.csN = s.dacx.csN := rfl
@[simp] theorem State.setXferDone_sbc (s : State) (b : Bool) : (s.setXferDone b).dacx.sbc = s.dacx.sbc := rfl
@[simp] theorem State.setXferDone_xferDone (s : State) (b : Bool) : (s.setXferDone b).dacx.xferDone = b := rfl
@[simp] theorem State.setXferDone_data (s : State) (b : Bool) : (s.setXferDone b).dacx.data = s.dacx.data := rfl
@[simp] theorem State.setXferDone_shreg (s : State) (b : Bool) : (s.setXferDone b).dacx.shreg = s.dacx.shreg := rfl
@[simp] theorem State.setXferDone_shifting (s : State) (b : Bool) : (s.setXferDone b).dacx.shifting = s.dacx.shifting := rfl
@[simp] theorem State.setXferDone_initRunning (s : State) (b : Bool) : (s.setXferDone b).dacx.initRunning = s.dacx.initRunning := rfl
@[simp] theorem State.setXferDone_dacInited (s : State) (b : Bool) : (s.setXferDone b).dacx.dacInited = s.dacx.dacInited := rfl

/-! ## `emit` -/

@[simp] theorem State.emit_dacx (s : State) (e : Event) : (s.emit e).dacx = s.dacx := rfl
@[simp] theorem State.emit_lcdx (s : State) (e : Event) : (s.emit e).lcdx = s.lcdx := rfl
@[simp] theorem State.emit_refused (s : State) (e : Event) : (s.emit e).refused = s.refused := rfl
@[simp] theorem State.emit_trace (s : State) (e : Event) : (s.emit e).trace = s.trace ++ [e] := rfl
@[simp] theorem State.emit_port (s : State) (e : Event) : (s.emit e).port = s.port := rfl
@[simp] theorem State.emit_script (s : State) (e : Event) : (s.emit e).script = s.script := rfl
@[simp] theorem State.emit_env (s : State) (e : Event) : (s.emit e).env = s.env := rfl

/-! ## `respond` -/

@[simp] theorem State.respond_dacx (s : State) (op : Op) (r : Result) : (s.respond op r).dacx = s.dacx := rfl
@[simp] theorem State.respond_lcdx (s : State) (op : Op) (r : Result) : (s.respond op r).lcdx = s.lcdx := rfl
@[simp] theorem State.respond_refused (s : State) (op : Op) (r : Result) : (s.respond op r).refused = s.refused := rfl
@[simp] theorem State.respond_trace (s : State) (op : Op) (r : Result) : (s.respond op r).trace = s.trace ++ [.resp op r] := rfl
@[simp] theorem State.respond_port (s : State) (op : Op) (r : Result) : (s.respond op r).port = s.port := rfl
@[simp] theorem State.respond_script (s : State) (op : Op) (r : Result) : (s.respond op r).script = s.script := rfl
@[simp] theorem State.respond_env (s : State) (op : Op) (r : Result) : (s.respond op r).env = s.env := rfl

/-! ## `driveCs` -/

@[simp] theorem State.driveCs_lcdx (s : State) (b : Bit) : (s.driveCs b).lcdx = s.lcdx := rfl
@[simp] theorem State.driveCs_refused (s : State) (b : Bit) : (s.driveCs b).refused = s.refused := rfl
@[simp] theorem State.driveCs_trace (s : State) (b : Bit) : (s.driveCs b).trace = s.trace ++ [.cs b] := rfl
@[simp] theorem State.driveCs_port (s : State) (b : Bit) : (s.driveCs b).port = s.port := rfl
@[simp] theorem State.driveCs_script (s : State) (b : Bit) : (s.driveCs b).script = s.script := rfl
@[simp] theorem State.driveCs_env (s : State) (b : Bit) : (s.driveCs b).env = s.env := rfl
@[simp] theorem State.driveCs_hsq (s : State) (b : Bit) : (s.driveCs b).dacx.hsq = s.dacx.hsq := rfl
@[simp] theorem State.driveCs_frame (s : State) (b : Bit) : (s.driveCs b).dacx.frame = s.dacx.frame := rfl
@[simp] theorem State.driveCs_csN (s : State) (b : Bit) : (s.driveCs b).dacx.csN = b := rfl
@[simp] theorem State.driveCs_sbc (s : State) (b : Bit) : (s.driveCs b).dacx.sbc = s.dacx.sbc := rfl
@[simp] theorem State.driveCs_xferDone (s : State) (b : Bit) : (s.driveCs b).dacx.xferDone = s.dacx.xferDone := rfl
@[simp] theorem State.driveCs_data (s : State) (b : Bit) : (s.driveCs b).dacx.data = s.dacx.data := rfl
@[simp] theorem State.driveCs_shreg (s : State) (b : Bit) : (s.driveCs b).dacx.shreg = s.dacx.shreg := rfl
@[simp] theorem State.driveCs_shifting (s : State) (b : Bit) : (s.driveCs b).dacx.shifting = s.dacx.shifting := rfl
@[simp] theorem State.driveCs_initRunning (s : State) (b : Bit) : (s.driveCs b).dacx.initRunning = s.dacx.initRunning := rfl
@[simp] theorem State.driveCs_dacInited (s : State) (b : Bit) : (s.driveCs b).dacx.dacInited = s.dacx.dacInited := rfl

/-! ## `moveTo` -/

@[simp] theorem State.moveTo_lcdx (s : State) (h : Hsq) : (s.moveTo h).lcdx = s.lcdx := rfl
@[simp] theorem State.moveTo_refused (s : State) (h : Hsq) : (s.moveTo h).refused = s.refused := rfl
@[simp] theorem State.moveTo_trace (s : State) (h : Hsq) : (s.moveTo h).trace = s.trace := rfl
@[simp] theorem State.moveTo_port (s : State) (h : Hsq) : (s.moveTo h).port = s.port := rfl
@[simp] theorem State.moveTo_script (s : State) (h : Hsq) : (s.moveTo h).script = s.script := rfl
@[simp] theorem State.moveTo_env (s : State) (h : Hsq) : (s.moveTo h).env = s.env := rfl
@[simp] theorem State.moveTo_hsq (s : State) (h : Hsq) : (s.moveTo h).dacx.hsq = h := rfl
@[simp] theorem State.moveTo_frame (s : State) (h : Hsq) : (s.moveTo h).dacx.frame = s.dacx.frame := rfl
@[simp] theorem State.moveTo_csN (s : State) (h : Hsq) : (s.moveTo h).dacx.csN = s.dacx.csN := rfl
@[simp] theorem State.moveTo_sbc (s : State) (h : Hsq) : (s.moveTo h).dacx.sbc = s.dacx.sbc := rfl
@[simp] theorem State.moveTo_xferDone (s : State) (h : Hsq) : (s.moveTo h).dacx.xferDone = s.dacx.xferDone := rfl
@[simp] theorem State.moveTo_data (s : State) (h : Hsq) : (s.moveTo h).dacx.data = s.dacx.data := rfl
@[simp] theorem State.moveTo_shreg (s : State) (h : Hsq) : (s.moveTo h).dacx.shreg = s.dacx.shreg := rfl
@[simp] theorem State.moveTo_shifting (s : State) (h : Hsq) : (s.moveTo h).dacx.shifting = s.dacx.shifting := rfl
@[simp] theorem State.moveTo_initRunning (s : State) (h : Hsq) : (s.moveTo h).dacx.initRunning = s.dacx.initRunning := rfl
@[simp] theorem State.moveTo_dacInited (s : State) (h : Hsq) : (s.moveTo h).dacx.dacInited = s.dacx.dacInited := rfl

/-! ## `raiseCollision` -/

@[simp] theorem State.raiseCollision_dacx (s : State) (i : InspectionPoint) : (s.raiseCollision i).dacx = s.dacx := rfl
@[simp] theorem State.raiseCollision_lcdx (s : State) (i : InspectionPoint) : (s.raiseCollision i).lcdx = s.lcdx := rfl
@[simp] theorem State.raiseCollision_refused (s : State) (i : InspectionPoint) : (s.raiseCollision i).refused = s.refused := rfl
@[simp] theorem State.raiseCollision_trace (s : State) (i : InspectionPoint) : (s.raiseCollision i).trace = s.trace ++ [.diag .collision i] := rfl
@[simp] theorem State.raiseCollision_port (s : State) (i : InspectionPoint) : (s.raiseCollision i).port = s.port := rfl
@[simp] theorem State.raiseCollision_script (s : State) (i : InspectionPoint) : (s.raiseCollision i).script = s.script := rfl
@[simp] theorem State.raiseCollision_env (s : State) (i : InspectionPoint) : (s.raiseCollision i).env = s.env := rfl

/-! ## `raiseInvalid` -/

@[simp] theorem State.raiseInvalid_dacx (s : State) (c : ErrorCode) : (s.raiseInvalid c).dacx = s.dacx := rfl
@[simp] theorem State.raiseInvalid_lcdx (s : State) (c : ErrorCode) : (s.raiseInvalid c).lcdx = s.lcdx := rfl
@[simp] theorem State.raiseInvalid_refused (s : State) (c : ErrorCode) : (s.raiseInvalid c).refused = s.refused := rfl
@[simp] theorem State.raiseInvalid_trace (s : State) (c : ErrorCode) : (s.raiseInvalid c).trace = s.trace ++ [.err c] := rfl
@[simp] theorem State.raiseInvalid_port (s : State) (c : ErrorCode) : (s.raiseInvalid c).port = s.port := rfl
@[simp] theorem State.raiseInvalid_script (s : State) (c : ErrorCode) : (s.raiseInvalid c).script = s.script := rfl
@[simp] theorem State.raiseInvalid_env (s : State) (c : ErrorCode) : (s.raiseInvalid c).env = s.env := rfl

/-! ## `markRefused` -/

@[simp] theorem State.markRefused_dacx (s : State) : (s.markRefused).dacx = s.dacx := rfl
@[simp] theorem State.markRefused_lcdx (s : State) : (s.markRefused).lcdx = s.lcdx := rfl
@[simp] theorem State.markRefused_refused (s : State) : (s.markRefused).refused = true := rfl
@[simp] theorem State.markRefused_trace (s : State) : (s.markRefused).trace = s.trace := rfl
@[simp] theorem State.markRefused_port (s : State) : (s.markRefused).port = s.port := rfl
@[simp] theorem State.markRefused_script (s : State) : (s.markRefused).script = s.script := rfl
@[simp] theorem State.markRefused_env (s : State) : (s.markRefused).env = s.env := rfl

/-! ## `complete` -/

@[simp] theorem State.complete_lcdx (s : State) : (s.complete).lcdx = s.lcdx := rfl
@[simp] theorem State.complete_refused (s : State) : (s.complete).refused = s.refused := rfl
@[simp] theorem State.complete_trace (s : State) : (s.complete).trace = s.trace ++ [.tx s.dacx.shreg] := rfl
@[simp] theorem State.complete_port (s : State) : (s.complete).port = s.port := rfl
@[simp] theorem State.complete_script (s : State) : (s.complete).script = s.script := rfl
@[simp] theorem State.complete_env (s : State) : (s.complete).env = s.env.drawRx.2 := rfl
@[simp] theorem State.complete_hsq (s : State) : (s.complete).dacx.hsq = s.dacx.hsq := rfl
@[simp] theorem State.complete_frame (s : State) : (s.complete).dacx.frame = s.dacx.frame := rfl
@[simp] theorem State.complete_csN (s : State) : (s.complete).dacx.csN = s.dacx.csN := rfl
@[simp] theorem State.complete_sbc (s : State) : (s.complete).dacx.sbc = s.dacx.sbc := rfl
@[simp] theorem State.complete_xferDone (s : State) : (s.complete).dacx.xferDone = true := rfl
@[simp] theorem State.complete_data (s : State) : (s.complete).dacx.data = s.env.drawRx.1 := rfl
@[simp] theorem State.complete_shreg (s : State) : (s.complete).dacx.shreg = s.dacx.shreg := rfl
@[simp] theorem State.complete_shifting (s : State) : (s.complete).dacx.shifting = false := rfl
@[simp] theorem State.complete_initRunning (s : State) : (s.complete).dacx.initRunning = s.dacx.initRunning := rfl
@[simp] theorem State.complete_dacInited (s : State) : (s.complete).dacx.dacInited = s.dacx.dacInited := rfl

/-! ## `withFetchWord` -/

@[simp] theorem State.withFetchWord_dacx (s : State) (nbits w : Nat) : (s.withFetchWord nbits w).dacx = s.dacx := rfl
@[simp] theorem State.withFetchWord_lcdx (s : State) (nbits w : Nat) : (s.withFetchWord nbits w).lcdx = s.lcdx := rfl
@[simp] theorem State.withFetchWord_refused (s : State) (nbits w : Nat) : (s.withFetchWord nbits w).refused = s.refused := rfl
@[simp] theorem State.withFetchWord_trace (s : State) (nbits w : Nat) : (s.withFetchWord nbits w).trace = s.trace := rfl
@[simp] theorem State.withFetchWord_port (s : State) (nbits w : Nat) : (s.withFetchWord nbits w).port = some (wordOfNumber nbits w) := rfl
@[simp] theorem State.withFetchWord_script (s : State) (nbits w : Nat) : (s.withFetchWord nbits w).script = s.script := rfl
@[simp] theorem State.withFetchWord_env (s : State) (nbits w : Nat) : (s.withFetchWord nbits w).env = s.env := rfl

/-! ## `toSelected` -/

@[simp] theorem toSelected_lcdx (v : Sample) (s : State) : (toSelected v s).lcdx = s.lcdx := rfl
@[simp] theorem toSelected_refused (v : Sample) (s : State) : (toSelected v s).refused = s.refused := rfl
@[simp] theorem toSelected_trace (v : Sample) (s : State) : (toSelected v s).trace = s.trace ++ [.cs 0] := rfl
@[simp] theorem toSelected_port (v : Sample) (s : State) : (toSelected v s).port = s.port := rfl
@[simp] theorem toSelected_script (v : Sample) (s : State) : (toSelected v s).script = s.script := rfl
@[simp] theorem toSelected_env (v : Sample) (s : State) : (toSelected v s).env = s.env := rfl
@[simp] theorem toSelected_hsq (v : Sample) (s : State) : (toSelected v s).dacx.hsq = .selected := rfl
@[simp] theorem toSelected_frame (v : Sample) (s : State) : (toSelected v s).dacx.frame = frameOf v := rfl
@[simp] theorem toSelected_csN (v : Sample) (s : State) : (toSelected v s).dacx.csN = 0 := rfl
@[simp] theorem toSelected_sbc (v : Sample) (s : State) : (toSelected v s).dacx.sbc = s.dacx.sbc := rfl
@[simp] theorem toSelected_xferDone (v : Sample) (s : State) : (toSelected v s).dacx.xferDone = s.dacx.xferDone := rfl
@[simp] theorem toSelected_data (v : Sample) (s : State) : (toSelected v s).dacx.data = s.dacx.data := rfl
@[simp] theorem toSelected_shreg (v : Sample) (s : State) : (toSelected v s).dacx.shreg = s.dacx.shreg := rfl
@[simp] theorem toSelected_shifting (v : Sample) (s : State) : (toSelected v s).dacx.shifting = s.dacx.shifting := rfl
@[simp] theorem toSelected_initRunning (v : Sample) (s : State) : (toSelected v s).dacx.initRunning = s.dacx.initRunning := rfl
@[simp] theorem toSelected_dacInited (v : Sample) (s : State) : (toSelected v s).dacx.dacInited = s.dacx.dacInited := rfl

/-! ## `toMsbDone` -/

@[simp] theorem toMsbDone_lcdx (s : State) : (toMsbDone s).lcdx = s.lcdx := rfl
@[simp] theorem toMsbDone_refused (s : State) : (toMsbDone s).refused = s.refused := rfl
@[simp] theorem toMsbDone_trace (s : State) : (toMsbDone s).trace = s.trace := rfl
@[simp] theorem toMsbDone_port (s : State) : (toMsbDone s).port = s.port := rfl
@[simp] theorem toMsbDone_script (s : State) : (toMsbDone s).script = s.script := rfl
@[simp] theorem toMsbDone_env (s : State) : (toMsbDone s).env = s.env := rfl
@[simp] theorem toMsbDone_hsq (s : State) : (toMsbDone s).dacx.hsq = .msbDone := rfl
@[simp] theorem toMsbDone_frame (s : State) : (toMsbDone s).dacx.frame = s.dacx.frame := rfl
@[simp] theorem toMsbDone_csN (s : State) : (toMsbDone s).dacx.csN = s.dacx.csN := rfl
@[simp] theorem toMsbDone_sbc (s : State) : (toMsbDone s).dacx.sbc = s.dacx.sbc := rfl
@[simp] theorem toMsbDone_xferDone (s : State) : (toMsbDone s).dacx.xferDone = s.dacx.xferDone := rfl
@[simp] theorem toMsbDone_data (s : State) : (toMsbDone s).dacx.data = s.dacx.data := rfl
@[simp] theorem toMsbDone_shreg (s : State) : (toMsbDone s).dacx.shreg = s.dacx.shreg := rfl
@[simp] theorem toMsbDone_shifting (s : State) : (toMsbDone s).dacx.shifting = s.dacx.shifting := rfl
@[simp] theorem toMsbDone_initRunning (s : State) : (toMsbDone s).dacx.initRunning = s.dacx.initRunning := rfl
@[simp] theorem toMsbDone_dacInited (s : State) : (toMsbDone s).dacx.dacInited = s.dacx.dacInited := rfl

/-! ## `toLsbDone` -/

@[simp] theorem toLsbDone_lcdx (s : State) : (toLsbDone s).lcdx = s.lcdx := rfl
@[simp] theorem toLsbDone_refused (s : State) : (toLsbDone s).refused = s.refused := rfl
@[simp] theorem toLsbDone_trace (s : State) : (toLsbDone s).trace = s.trace := rfl
@[simp] theorem toLsbDone_port (s : State) : (toLsbDone s).port = s.port := rfl
@[simp] theorem toLsbDone_script (s : State) : (toLsbDone s).script = s.script := rfl
@[simp] theorem toLsbDone_env (s : State) : (toLsbDone s).env = s.env := rfl
@[simp] theorem toLsbDone_hsq (s : State) : (toLsbDone s).dacx.hsq = .lsbDone := rfl
@[simp] theorem toLsbDone_frame (s : State) : (toLsbDone s).dacx.frame = s.dacx.frame := rfl
@[simp] theorem toLsbDone_csN (s : State) : (toLsbDone s).dacx.csN = s.dacx.csN := rfl
@[simp] theorem toLsbDone_sbc (s : State) : (toLsbDone s).dacx.sbc = s.dacx.sbc := rfl
@[simp] theorem toLsbDone_xferDone (s : State) : (toLsbDone s).dacx.xferDone = s.dacx.xferDone := rfl
@[simp] theorem toLsbDone_data (s : State) : (toLsbDone s).dacx.data = s.dacx.data := rfl
@[simp] theorem toLsbDone_shreg (s : State) : (toLsbDone s).dacx.shreg = s.dacx.shreg := rfl
@[simp] theorem toLsbDone_shifting (s : State) : (toLsbDone s).dacx.shifting = s.dacx.shifting := rfl
@[simp] theorem toLsbDone_initRunning (s : State) : (toLsbDone s).dacx.initRunning = s.dacx.initRunning := rfl
@[simp] theorem toLsbDone_dacInited (s : State) : (toLsbDone s).dacx.dacInited = s.dacx.dacInited := rfl

/-! ## `raiseAll`: the codes become events, in order, and nothing else changes -/

theorem State.raiseAll_eq (s : State) (codes : List ErrorCode) :
    s.raiseAll codes = { s with trace := s.trace ++ codes.map Event.err } := by
  induction codes generalizing s with
  | nil => simp [State.raiseAll]
  | cons c rest ih =>
    have h : s.raiseAll (c :: rest) = (s.raiseInvalid c).raiseAll rest := rfl
    rw [h, ih]
    simp [State.raiseInvalid, State.emit]

@[simp] theorem State.raiseAll_dacx (s : State) (codes : List ErrorCode) : (s.raiseAll codes).dacx = s.dacx := by
  rw [State.raiseAll_eq]

@[simp] theorem State.raiseAll_lcdx (s : State) (codes : List ErrorCode) : (s.raiseAll codes).lcdx = s.lcdx := by
  rw [State.raiseAll_eq]

@[simp] theorem State.raiseAll_refused (s : State) (codes : List ErrorCode) : (s.raiseAll codes).refused = s.refused := by
  rw [State.raiseAll_eq]

@[simp] theorem State.raiseAll_trace (s : State) (codes : List ErrorCode) : (s.raiseAll codes).trace = s.trace ++ codes.map Event.err := by
  rw [State.raiseAll_eq]

@[simp] theorem State.raiseAll_port (s : State) (codes : List ErrorCode) : (s.raiseAll codes).port = s.port := by
  rw [State.raiseAll_eq]

@[simp] theorem State.raiseAll_script (s : State) (codes : List ErrorCode) : (s.raiseAll codes).script = s.script := by
  rw [State.raiseAll_eq]

@[simp] theorem State.raiseAll_env (s : State) (codes : List ErrorCode) : (s.raiseAll codes).env = s.env := by
  rw [State.raiseAll_eq]

/-! ## `inspect`: one draw, and one event where it is 1 -/

/-- The inspection in one equation. -/
theorem State.inspect_eq (s : State) (i : InspectionPoint) :
    s.inspect i = { s with
      env := s.env.drawWcol.2
      trace := s.trace ++ if s.env.drawWcol.1 then [.diag .collision i] else [] } := by
  unfold State.inspect
  cases s.env.drawWcol.1 <;> simp [State.raiseCollision, State.emit]

@[simp] theorem State.inspect_dacx (s : State) (i : InspectionPoint) :
    (s.inspect i).dacx = s.dacx := by
  rw [State.inspect_eq]

@[simp] theorem State.inspect_lcdx (s : State) (i : InspectionPoint) :
    (s.inspect i).lcdx = s.lcdx := by
  rw [State.inspect_eq]

@[simp] theorem State.inspect_refused (s : State) (i : InspectionPoint) :
    (s.inspect i).refused = s.refused := by
  rw [State.inspect_eq]

@[simp] theorem State.inspect_trace (s : State) (i : InspectionPoint) :
    (s.inspect i).trace = s.trace ++ if s.env.drawWcol.1 then [.diag .collision i] else [] := by
  rw [State.inspect_eq]

@[simp] theorem State.inspect_port (s : State) (i : InspectionPoint) :
    (s.inspect i).port = s.port := by
  rw [State.inspect_eq]

@[simp] theorem State.inspect_script (s : State) (i : InspectionPoint) :
    (s.inspect i).script = s.script := by
  rw [State.inspect_eq]

@[simp] theorem State.inspect_env (s : State) (i : InspectionPoint) :
    (s.inspect i).env = s.env.drawWcol.2 := by
  rw [State.inspect_eq]

end Sys2Proof.Machine
end

