-- ==== Sys2Proof/Laws/Ops.lean ====
section
/-!
SUPPORT. What each shared operation can do, said once: the sequencing of parts, the loads of the byte engine,
the lookups, the read-modify-write.
-/

namespace Sys2Proof.Machine

/-! ## Sequencing -/

@[simp] theorem andThen_next {α β : Type} (a : α) (f : α → Host.Outcome β Fault Refusal) :
    andThen (.next a) f = f a := rfl

@[simp] theorem andThen_fault {α β : Type} (r : Fault) (f : α → Host.Outcome β Fault Refusal) :
    andThen (.fault r) f = .fault r := rfl

@[simp] theorem andThen_refused {α β : Type} (r : Refusal) (f : α → Host.Outcome β Fault Refusal) :
    andThen (.refused r) f = .refused r := rfl

/-- A sequence answers a next state exactly where both its parts do. -/
theorem andThen_eq_next {α β : Type} {o : Host.Outcome α Fault Refusal} {f : α → Host.Outcome β Fault Refusal}
    {b : β} : andThen o f = .next b ↔ ∃ a, o = .next a ∧ f a = .next b := by
  cases o <;> simp [andThen]

/-! ## The byte engine -/

/-- A load answers a next state exactly where no transfer is in flight, and then this one (40_dac.md R110,
R114). -/
theorem loadData_eq_next {b : Byte} {s t : State} : loadData b s = .next t ↔
    s.dacx.shifting = false ∧
      t = { s with dacx := { s.dacx with data := b, shreg := b, shifting := true, xferDone := false } } := by
  unfold loadData
  cases s.dacx.shifting <;> simp [State.setXferDone, eq_comm]

/-- `Selected → SendingMSB` in one inversion. -/
theorem toSendingMsb_eq_next {s t : State} : toSendingMsb s = .next t ↔
    s.dacx.shifting = false ∧
      t = { s with
        dacx := { s.dacx with hsq := .sendingMsb, data := highByte s.dacx.frame, shreg := highByte s.dacx.frame, shifting := true, xferDone := false }
        env := s.env.drawWcol.2
        trace := s.trace ++ if s.env.drawWcol.1 then [.diag .collision .first] else [] } := by
  simp only [toSendingMsb, andThen_eq_next, loadData_eq_next, State.inspect_eq, State.moveTo]
  constructor
  · rintro ⟨a, ⟨h, rfl⟩, h2⟩
    exact ⟨h, by injection h2 with h2; exact h2.symm⟩
  · rintro ⟨h, rfl⟩
    exact ⟨_, ⟨h, rfl⟩, rfl⟩

/-- `MSBDone → SendingLSB` in one inversion. -/
theorem toSendingLsb_eq_next {s t : State} : toSendingLsb s = .next t ↔
    s.dacx.shifting = false ∧
      t = { s with
        dacx := { s.dacx with hsq := .sendingLsb, data := lowByte s.dacx.frame, shreg := lowByte s.dacx.frame, shifting := true, xferDone := false }
        env := s.env.drawWcol.2
        trace := s.trace ++ if s.env.drawWcol.1 then [.diag .collision .second] else [] } := by
  simp only [toSendingLsb, andThen_eq_next, loadData_eq_next, State.inspect_eq, State.moveTo]
  constructor
  · rintro ⟨a, ⟨h, rfl⟩, h2⟩
    exact ⟨h, by injection h2 with h2; exact h2.symm⟩
  · rintro ⟨h, rfl⟩
    exact ⟨_, ⟨h, rfl⟩, rfl⟩

/-- `LSBDone → Idle` in one equation. -/
theorem toIdle_eq (s : State) : toIdle s = { s with
    dacx := { s.dacx with hsq := .idle, csN := 1, initRunning := false }
    trace := s.trace ++ [.cs 1, .resp (if s.dacx.initRunning then .dacInit else .dacWrite) .done] } := by
  simp [toIdle, State.driveCs, State.emit, State.moveTo, State.respond]

/-- A load into a transfer in flight is refused, in either transition (40_dac.md R114). -/
theorem toSendingMsb_shifting {s : State} (h : s.dacx.shifting = true) :
    toSendingMsb s = .refused .loadInFlight := by
  simp [toSendingMsb, loadData, State.inspect_dacx, h]

theorem toSendingLsb_shifting {s : State} (h : s.dacx.shifting = true) :
    toSendingLsb s = .refused .loadInFlight := by
  simp [toSendingLsb, loadData, State.inspect_dacx, h]

/-! ## Lookups -/

/-- The position lookup on a valid position. -/
theorem positionToRegister_valid {pos : Int} (h : 2 ≤ pos ∧ pos ≤ 7) :
    positionToRegister pos = some (Fin.ofNat 3 (planeIndex pos).toNat, nibbleSide pos) := by
  simp [positionToRegister, h]

/-- The position lookup fails outside 2 to 7. -/
theorem positionToRegister_invalid {pos : Int} (h : ¬(2 ≤ pos ∧ pos ≤ 7)) : positionToRegister pos = none := by
  simp only [positionToRegister, h, if_false]

/-- The position lookup succeeds on 2 to 7 alone. -/
theorem positionToRegister_isSome (pos : Int) :
    (positionToRegister pos).isSome = true ↔ 2 ≤ pos ∧ pos ≤ 7 := by
  by_cases h : 2 ≤ pos ∧ pos ≤ 7
  · simp [positionToRegister_valid h, h]
  · rw [positionToRegister_invalid h]; simpa using h

/-! ## Cells -/

/-- Every index the block forms exists (20_memory.md R66). -/
theorem cellIndex_lt (k : Fin 4) (p : Fin 3) : cellIndex k p < cellCount := by
  have h1 := k.isLt
  have h2 := p.isLt
  simp only [cellIndex, cellCount]
  omega

/-- Different rows or planes are different cells. -/
theorem cellIndex_inj {k k' : Fin 4} {p p' : Fin 3} : cellIndex k p = cellIndex k' p' ↔ k = k' ∧ p = p' := by
  have h1 := p.isLt
  have h2 := p'.isLt
  simp only [cellIndex, Fin.ext_iff]
  omega

/-- A cell that exists reads as its byte. -/
theorem memRead_eq {s : State} {a : Nat} (ha : a < cellCount) : memRead s a = .next (s.lcdx.cells.lookup a) := by
  simp [memRead, Memory.read_eq _ ha]

/-- A write of a cell that exists. -/
theorem memWrite_eq {s : State} {a : Nat} (v : Byte) (ha : a < cellCount) :
    memWrite s a v = .next { s with lcdx := { s.lcdx with cells := s.lcdx.cells.write a v } } := by
  simp [memWrite, ha]

/-- The read-modify-write always answers the write of the merged byte (41_lcd.md R137): it forms no index that
does not exist (20_memory.md R66). -/
theorem rmw_eq (k : Fin 4) (p : Fin 3) (side : NibbleSide) (n : Nibble) (s : State) :
    rmw k p side n s = .next { s with lcdx := { s.lcdx with
      cells := s.lcdx.cells.write (cellIndex k p) (mergeNibble (s.lcdx.cells.lookup (cellIndex k p)) side n) } } := by
  rw [rmw, memRead_eq (cellIndex_lt k p), andThen_next, memWrite_eq _ (cellIndex_lt k p)]

/-- The targeted nibble of a merged byte is the new nibble, the other one is the old byte's. -/
theorem nibbleOf_mergeNibble (old : Byte) (side : NibbleSide) (n : Nibble) :
    nibbleOf (mergeNibble old side n) side = n ∧
      nibbleOf (mergeNibble old side n) side.other = nibbleOf old side.other := by
  cases side <;> constructor <;> apply BitVec.eq_of_getLsbD_eq <;> intro i hi <;>
    have : i = 0 ∨ i = 1 ∨ i = 2 ∨ i = 3 := by omega
  all_goals rcases this with rfl | rfl | rfl | rfl <;>
    simp [nibbleOf, mergeNibble, NibbleSide.other]

/-- A byte is its two nibbles. -/
theorem byte_ext_nibbles {a b : Byte} (side : NibbleSide) (h₁ : nibbleOf a side = nibbleOf b side)
    (h₂ : nibbleOf a side.other = nibbleOf b side.other) : a = b := by
  have key : ∀ {a b : Byte}, nibbleOf a .low = nibbleOf b .low → nibbleOf a .high = nibbleOf b .high → a = b := by
    intro a b hl hh
    apply BitVec.eq_of_getLsbD_eq
    intro i hi
    by_cases hlt : i < 4
    · have := congrArg (fun n => n.getLsbD i) hl
      simpa [nibbleOf, BitVec.getLsbD_extractLsb', hlt] using this
    · have := congrArg (fun n => n.getLsbD (i - 4)) hh
      have e : 4 + (i - 4) = i := by omega
      have l : i - 4 < 4 := by omega
      simpa [nibbleOf, BitVec.getLsbD_extractLsb', e, l] using this
  cases side
  · exact key h₁ h₂
  · exact key h₂ h₁

/-! ## The rows of one position -/

/-- The cells after the read-modify-writes of a list of rows. -/
def Memory.mergeRows (p : Fin 3) (side : NibbleSide) (pat : Pattern) : List (Fin 4) → Memory → Memory
  | [], m => m
  | k :: rest, m => Memory.mergeRows p side pat rest
      (m.write (cellIndex k p) (mergeNibble (m.lookup (cellIndex k p)) side (nib pat k)))

/-- The read-modify-writes of a list of rows always answer a next state, in which only the cells are new. -/
theorem rmwRows_eq (p : Fin 3) (side : NibbleSide) (pat : Pattern) (l : List (Fin 4)) (s : State) :
    rmwRows p side pat l s =
      .next { s with lcdx := { s.lcdx with cells := Memory.mergeRows p side pat l s.lcdx.cells } } := by
  induction l generalizing s with
  | nil => rfl
  | cons k rest ih => rw [rmwRows, rmw_eq, andThen_next, ih]; rfl

/-- The rows keep the canonical form. -/
theorem Memory.wf_mergeRows (p : Fin 3) (side : NibbleSide) (pat : Pattern) (l : List (Fin 4)) (m : Memory)
    (h : m.wf = true) : (Memory.mergeRows p side pat l m).wf = true := by
  induction l generalizing m with
  | nil => exact h
  | cons k rest ih => exact ih _ (Memory.wf_write _ _ _ h (cellIndex_lt k p))

/-- The rows leave every cell that is not theirs. -/
theorem Memory.lookup_mergeRows_other {p : Fin 3} {side : NibbleSide} {pat : Pattern} {l : List (Fin 4)}
    {m : Memory} {a : Nat} (ha : ∀ k ∈ l, a ≠ cellIndex k p) :
    (Memory.mergeRows p side pat l m).lookup a = m.lookup a := by
  induction l generalizing m with
  | nil => rfl
  | cons k rest ih =>
    rw [Memory.mergeRows, ih fun k' hk' => ha k' (by simp [hk'])]
    exact Memory.lookup_write_other _ _ (ha k (by simp))

/-- Each of distinct rows leaves its cell at the merged byte. -/
theorem Memory.lookup_mergeRows {p : Fin 3} {side : NibbleSide} {pat : Pattern} {l : List (Fin 4)} {m : Memory}
    {k : Fin 4} (hl : l.Nodup) (hk : k ∈ l) :
    (Memory.mergeRows p side pat l m).lookup (cellIndex k p) =
      mergeNibble (m.lookup (cellIndex k p)) side (nib pat k) := by
  induction l generalizing m with
  | nil => cases hk
  | cons k' rest ih =>
    obtain ⟨hnot, hrest⟩ := List.nodup_cons.mp hl
    rw [Memory.mergeRows]
    by_cases h : k ∈ rest
    · have hne : cellIndex k p ≠ cellIndex k' p := fun e => hnot ((cellIndex_inj.mp e).1 ▸ h)
      rw [ih hrest h, Memory.lookup_write_other _ _ hne]
    · have hkk : k = k' := by simpa [h] using hk
      subst hkk
      rw [Memory.lookup_mergeRows_other fun k2 hk2 e => h (by rw [(cellIndex_inj.mp e).1]; exact hk2),
        Memory.lookup_write_same]

end Sys2Proof.Machine
end

