-- ==== Sys2Proof/Laws/PerInstr.lean ====
section
/-!
SUPPORT. What holds of every command as syntax, one lemma per constructor: its word, well formed or not, is of
its own row of the opcode table (30_encoding.md R87).
-/

namespace Sys2Proof.Laws.TableRow

/-- The command's word matches its row: `w & mask = match`. -/
def Statement (i : Instr) : Prop := encode i &&& (tableRow i).1 = (tableRow i).2

theorem dacInit : Statement .dacInit := by
  unfold Statement
  decide

theorem dacWrite (value : Sample) : Statement (.dacWrite value) := by
  simp only [Statement, encode, tableRow]
  apply BitVec.eq_of_getLsbD_eq
  intro i hi
  interval_cases i <;> simp

theorem lcdInit : Statement .lcdInit := by
  unfold Statement
  decide

theorem lcdC2s (c : Byte) : Statement (.lcdC2s c) := by
  simp only [Statement, encode, tableRow]
  apply BitVec.eq_of_getLsbD_eq
  intro i hi
  interval_cases i <;> simp

theorem lcdP2r (pos : Int) : Statement (.lcdP2r pos) := by
  simp only [Statement, encode, tableRow]
  apply BitVec.eq_of_getLsbD_eq
  intro i hi
  interval_cases i <;> simp

theorem lcdWrite (c : Byte) (pos : Int) : Statement (.lcdWrite c pos) := by
  simp only [Statement, encode, tableRow]
  apply BitVec.eq_of_getLsbD_eq
  intro i hi
  interval_cases i <;> simp

end Sys2Proof.Laws.TableRow
end

