-- ==== Sys2Proof/Laws/Step.lean ====
section
/-!
SUPPORT. What one step can do, said once: each agent's turn, and each operation, in one inversion.
-/

namespace Sys2Proof.Machine

/-- Nothing is outstanding in DACX exactly where the sequencer is idle and no DAC.INIT is under way. -/
theorem dacOutstanding_eq_false {s : State} :
    s.dacOutstanding = false ↔ s.dacx.hsq = .idle ∧ s.dacx.initRunning = false := by
  simp [State.dacOutstanding]

theorem dacOutstanding_eq_true {s : State} :
    s.dacOutstanding = true ↔ s.dacx.hsq ≠ .idle ∨ s.dacx.initRunning = true := by
  simp [State.dacOutstanding]

/-! ## The operations -/

/-- DAC.INIT answers a next state exactly where nothing is outstanding, and then this one. -/
theorem execDacInit_eq_next {s t : State} : execDacInit s = .next t ↔
    s.dacOutstanding = false ∧ t = { s with
      dacx := { s.dacx with
        sbc := { mstrEn := 1, busEn := 1, clkSel := Config.dacClkSelInit, dblSpd := Config.dacDblSpdInit }
        csN := 1, initRunning := true, dacInited := true }
      trace := s.trace ++ [.cs 1] } := by
  unfold execDacInit
  cases s.dacOutstanding <;> simp [State.driveCs, State.emit, eq_comm]

/-- DAC.WRITE answers a next state exactly where nothing is outstanding and DAC.INIT has been given. -/
theorem execDacWrite_eq_next {v : Sample} {s t : State} : execDacWrite v s = .next t ↔
    s.dacOutstanding = false ∧ s.dacx.dacInited = true ∧ t = toSelected v s := by
  unfold execDacWrite
  cases s.dacOutstanding <;> cases s.dacx.dacInited <;> simp [eq_comm]

/-- LCD.INIT always answers this next state. -/
theorem execLcdInit_eq (s : State) : execLcdInit s = .next { s with
    lcdx := { cells := s.lcdx.cells.zeroAll, lcr := lcrInitial, lcdInited := true }
    trace := s.trace ++ [.resp .lcdInit .done] } := rfl

/-- LCD.INIT's cells by what they read as: some memory, all zero, of canonical form where it was. -/
theorem execLcdInit_spec (s : State) : ∃ m : Memory, execLcdInit s = .next { s with
      lcdx := { cells := m, lcr := lcrInitial, lcdInited := true }
      trace := s.trace ++ [.resp .lcdInit .done] } ∧
    (s.lcdx.cells.wf = true → m.wf = true) ∧
    ∀ b, m.read b = if b < cellCount then some 0x00 else s.lcdx.cells.read b :=
  ⟨_, execLcdInit_eq s, Memory.wf_zeroAll _, Memory.read_zeroAll _⟩

/-- LCD.C2S always answers a next state in which only its response is new. -/
theorem execLcdC2s_eq (c : Byte) (s : State) : execLcdC2s c s = .next { s with
    trace := s.trace ++ [.resp .lcdC2s (match glyph c with
      | some pat => .pattern pat
      | none => .error .invalidCharacter)] } := by
  unfold execLcdC2s
  cases glyph c <;> rfl

/-- LCD.P2R always answers a next state in which only its response is new. -/
theorem execLcdP2r_eq (pos : Int) (s : State) : execLcdP2r pos s = .next { s with
    trace := s.trace ++ [.resp .lcdP2r (match positionToRegister pos with
      | some (p, side) => .reg p side
      | none => .error .invalidPosition)] } := by
  unfold execLcdP2r
  cases positionToRegister pos <;> rfl

/-- With both operands valid, LCD.WRITE is its four read-modify-writes and its response. -/
theorem execLcdWrite_valid {c : Byte} {pos : Int} {pat : Pattern} {p : Fin 3} {side : NibbleSide} {s : State}
    (hi : s.lcdx.lcdInited = true) (hc : glyph c = some pat) (hp : positionToRegister pos = some (p, side)) :
    execLcdWrite c pos s = .next { s with
      lcdx := { s.lcdx with cells := Memory.mergeRows p side pat [0, 1, 2, 3] s.lcdx.cells }
      trace := s.trace ++ [.resp .lcdWrite .done] } := by
  simp [execLcdWrite, lcdApply, hi, hc, hp, rmwRows_eq, State.respond, State.emit]

/-- With an operand invalid, LCD.WRITE is its reports and its response. -/
theorem execLcdWrite_invalid {c : Byte} {pos : Int} {s : State} (hi : s.lcdx.lcdInited = true)
    (h : glyph c = none ∨ positionToRegister pos = none) : execLcdWrite c pos s = .next { s with
      trace := s.trace ++
        (invalidCodes (glyph c).isSome (positionToRegister pos).isSome).map Event.err ++
        [.resp .lcdWrite .done] } := by
  cases hc : glyph c <;> cases hp : positionToRegister pos <;>
    simp_all [execLcdWrite, lcdApply, State.raiseAll_eq, State.respond, State.emit]

/-- Once LCD.INIT has been given, LCD.WRITE always answers a next state, whatever its operands: cells made from
the cells alone, of canonical form where they were, only those of the position's register changed, and events
that do not depend on the state. -/
theorem execLcdWrite_spec (c : Byte) (pos : Int) : ∃ (f : Memory → Memory) (es : List Event),
    (∀ s : State, s.lcdx.lcdInited = true → execLcdWrite c pos s = .next { s with
      lcdx := { s.lcdx with cells := f s.lcdx.cells }, trace := s.trace ++ es }) ∧
    ∀ m : Memory, (m.wf = true → (f m).wf = true) ∧
      ∀ a, (∀ p side, positionToRegister pos = some (p, side) → ∀ k, a ≠ cellIndex k p) →
        (f m).read a = m.read a := by
  cases hc : glyph c with
  | none =>
    exact ⟨id, _, fun s hi => by rw [execLcdWrite_invalid hi (.inl hc), List.append_assoc]; rfl,
      fun m => ⟨id, fun _ _ => rfl⟩⟩
  | some pat =>
    cases hp : positionToRegister pos with
    | none =>
      exact ⟨id, _, fun s hi => by rw [execLcdWrite_invalid hi (.inr hp), List.append_assoc]; rfl,
        fun m => ⟨id, fun _ _ => rfl⟩⟩
    | some r =>
      obtain ⟨p, side⟩ := r
      refine ⟨Memory.mergeRows p side pat [0, 1, 2, 3], _, fun s hi => execLcdWrite_valid hi hc hp, fun m => ?_⟩
      refine ⟨Memory.wf_mergeRows p side pat _ m, fun a ha => ?_⟩
      simp only [Memory.read, Memory.lookup_mergeRows_other fun k _ => ha p side rfl k]

/-- Before LCD.INIT, LCD.WRITE is refused whatever its operands (41_lcd.md R145). -/
theorem execLcdWrite_refused {c : Byte} {pos : Int} {s : State} (h : s.lcdx.lcdInited = false) :
    execLcdWrite c pos s = .refused .lcdNotInitialised := by
  simp [execLcdWrite, h]

/-- Whatever LCD.WRITE does, it changes no more than the cells and the trace; the cells keep their form, and
where the lookup gives no register they are as before. -/
theorem execLcdWrite_inv {c : Byte} {pos : Int} {s t : State} (h : execLcdWrite c pos s = .next t) :
    s.lcdx.lcdInited = true ∧ ∃ (m : Memory) (codes : List ErrorCode), t = { s with
      lcdx := { s.lcdx with cells := m }
      trace := s.trace ++ codes.map Event.err ++ [.resp .lcdWrite .done] } ∧
      (s.lcdx.cells.wf = true → m.wf = true) ∧
      ∀ a, (∀ p side, positionToRegister pos = some (p, side) → ∀ k, a ≠ cellIndex k p) →
        m.read a = s.lcdx.cells.read a := by
  have hi : s.lcdx.lcdInited = true := by
    cases hi : s.lcdx.lcdInited <;> simp_all [execLcdWrite]
  refine ⟨hi, ?_⟩
  cases hc : glyph c with
  | none =>
    rw [execLcdWrite_invalid hi (.inl hc)] at h
    injection h with h
    exact ⟨s.lcdx.cells, _, h.symm, id, fun _ _ => rfl⟩
  | some pat =>
    cases hp : positionToRegister pos with
    | none =>
      rw [execLcdWrite_invalid hi (.inr hp)] at h
      injection h with h
      exact ⟨s.lcdx.cells, _, h.symm, id, fun _ _ => rfl⟩
    | some r =>
      obtain ⟨p, side⟩ := r
      rw [execLcdWrite_valid hi hc hp] at h
      injection h with h
      refine ⟨_, [], by simp [← h], Memory.wf_mergeRows p side pat [0, 1, 2, 3] _, fun a ha => ?_⟩
      simp only [Memory.read, Memory.lookup_mergeRows_other fun k _ => ha p side rfl k]

/-- LCD.WRITE depends on LCDX alone: from any state with the same LCDX it makes the same LCDX and emits the
same events. -/
theorem execLcdWrite_congr {c : Byte} {pos : Int} {s t : State} (s' : State) (h : execLcdWrite c pos s = .next t)
    (hl : s'.lcdx = s.lcdx) : ∃ es : List Event, t.trace = s.trace ++ es ∧
      execLcdWrite c pos s' = .next { s' with lcdx := t.lcdx, trace := s'.trace ++ es } := by
  obtain ⟨hi, -⟩ := execLcdWrite_inv h
  obtain ⟨f, es, he, -⟩ := execLcdWrite_spec c pos
  rw [he s hi] at h
  injection h with h
  subst h
  exact ⟨es, rfl, by rw [he s' (by rw [hl]; exact hi), hl]⟩

/-- LCD.WRITE answers a next state, or is refused before LCD.INIT. -/
theorem execLcdWrite_total (c : Byte) (pos : Int) (s : State) :
    (∃ t, execLcdWrite c pos s = .next t) ∨
    (s.lcdx.lcdInited = false ∧ execLcdWrite c pos s = .refused .lcdNotInitialised) := by
  cases hi : s.lcdx.lcdInited with
  | true => obtain ⟨f, es, he, -⟩ := execLcdWrite_spec c pos; exact .inl ⟨_, he s hi⟩
  | false => exact .inr ⟨rfl, execLcdWrite_refused hi⟩

/-- Every way an operation can stop. -/
theorem exec_total (i : Instr) (s : State) :
    (∃ t, exec i s = .next t) ∨
    (s.dacOutstanding = true ∧ exec i s = .refused .dacBusy) ∨
    (s.dacx.dacInited = false ∧ exec i s = .refused .dacNotInitialised) ∨
    (s.lcdx.lcdInited = false ∧ exec i s = .refused .lcdNotInitialised) := by
  cases i with
  | dacInit => cases ho : s.dacOutstanding <;> simp [exec, execDacInit, ho]
  | dacWrite v =>
    cases ho : s.dacOutstanding <;> cases hd : s.dacx.dacInited <;> simp [exec, execDacWrite, ho, hd]
  | lcdInit => exact .inl ⟨_, execLcdInit_eq s⟩
  | lcdC2s c => exact .inl ⟨_, execLcdC2s_eq c s⟩
  | lcdP2r pos => exact .inl ⟨_, execLcdP2r_eq pos s⟩
  | lcdWrite c pos =>
    rcases execLcdWrite_total c pos s with h | h
    · exact .inl h
    · exact .inr (.inr (.inr h))

/-! ## The turns -/

/-- The sequencer's turn answers a next state, or refuses a load into a transfer in flight. -/
theorem sequencerTurn_total (s : State) :
    (∃ t, sequencerTurn s = .next t) ∨
    (s.dacx.shifting = true ∧ (s.dacx.hsq = .selected ∨ s.dacx.hsq = .msbDone) ∧
      sequencerTurn s = .refused .loadInFlight) := by
  cases hs : s.dacx.shifting <;> cases hh : s.dacx.hsq <;> cases hx : s.dacx.xferDone <;>
    cases hr : s.dacx.initRunning <;>
    simp [sequencerTurn, hh, hx, hr, toSendingMsb, toSendingLsb, loadData, State.inspect_dacx, hs]


/-- The sequencer's turn: one arrow, or nothing in a wait. -/
theorem sequencerTurn_cases {s t : State} (h : sequencerTurn s = .next t) :
    (s.dacx.hsq = .idle ∧ s.dacx.initRunning = true ∧ t = toSelected 0 s) ∨
    (s.dacx.hsq = .idle ∧ s.dacx.initRunning = false ∧ t = s) ∨
    (s.dacx.hsq = .selected ∧ toSendingMsb s = .next t) ∨
    (s.dacx.hsq = .sendingMsb ∧ s.dacx.xferDone = true ∧ t = toMsbDone s) ∨
    (s.dacx.hsq = .msbDone ∧ toSendingLsb s = .next t) ∨
    (s.dacx.hsq = .sendingLsb ∧ s.dacx.xferDone = true ∧ t = toLsbDone s) ∨
    (s.dacx.hsq = .lsbDone ∧ t = toIdle s) ∨
    ((s.dacx.hsq = .sendingMsb ∨ s.dacx.hsq = .sendingLsb) ∧ s.dacx.xferDone = false ∧ t = s) := by
  cases hh : s.dacx.hsq <;> cases hx : s.dacx.xferDone <;> cases hr : s.dacx.initRunning <;>
    simp_all [sequencerTurn]

/-- The host's turn presents a word or does nothing. -/
theorem hostTurn_cases (s : State) :
    (s.script = [] ∧ hostTurn s = s) ∨
    ∃ w rest, s.script = w :: rest ∧ hostTurn s = { s with port := some w, script := rest } := by
  unfold hostTurn
  cases h : s.script with
  | nil => exact .inl ⟨rfl, rfl⟩
  | cons w rest => exact .inr ⟨w, rest, rfl, rfl⟩

/-- The state the next agent's turn sees after the byte engine had its own. -/
def afterEngine (s : State) : State := if s.dacx.shifting then { s with env := s.env.drawDone.2 } else s

/-- The byte engine's turn: a completion, or another agent's turn. -/
theorem engineTurn_cases (s : State) :
    (s.dacx.shifting = true ∧ s.env.drawDone.1 = true ∧
      engineTurn s = .next (State.complete { s with env := s.env.drawDone.2 })) ∨
    ((s.dacx.shifting = true → s.env.drawDone.1 = false) ∧ engineTurn s = otherTurn (afterEngine s)) := by
  cases hs : s.dacx.shifting <;> cases hd : s.env.drawDone.1 <;> simp [engineTurn, afterEngine, hs, hd]

@[simp] theorem afterEngine_dacx (s : State) : (afterEngine s).dacx = s.dacx := by unfold afterEngine; split <;> rfl
@[simp] theorem afterEngine_lcdx (s : State) : (afterEngine s).lcdx = s.lcdx := by unfold afterEngine; split <;> rfl
@[simp] theorem afterEngine_trace (s : State) : (afterEngine s).trace = s.trace := by unfold afterEngine; split <;> rfl
@[simp] theorem afterEngine_port (s : State) : (afterEngine s).port = s.port := by unfold afterEngine; split <;> rfl
@[simp] theorem afterEngine_script (s : State) : (afterEngine s).script = s.script := by unfold afterEngine; split <;> rfl
@[simp] theorem afterEngine_refused (s : State) : (afterEngine s).refused = s.refused := by unfold afterEngine; split <;> rfl
@[simp] theorem afterEngine_dacOutstanding (s : State) : (afterEngine s).dacOutstanding = s.dacOutstanding := by
  simp [State.dacOutstanding]

/-- Another agent's turn: the sequencer's while an operation is outstanding, else the host's. -/
theorem otherTurn_cases (s : State) :
    (s.dacOutstanding = true ∧ otherTurn s = sequencerTurn s) ∨
    (s.dacOutstanding = false ∧ otherTurn s = .next (hostTurn s)) := by
  cases h : s.dacOutstanding <;> simp [otherTurn, h]

/-- A step that answers a next state ran an admitted command, or was an agent's turn with nothing at the
port. -/
theorem step_cases {s t : State} (h : step s = .next t) : s.refused = false ∧
    ((∃ w i, s.port = some w ∧ decode w = .ok i ∧ s.dacOutstanding = false ∧
        exec i { s with port := none } = .next t) ∨
      (s.port = none ∧ engineTurn s = .next t)) := by
  have hr : s.refused = false := by
    by_contra hn
    have ht : s.refused = true := by simpa using hn
    simp [step, blockStep, ht] at h
  refine ⟨hr, ?_⟩
  cases hp : s.port with
  | none => exact .inr ⟨rfl, by simpa [step, blockStep, hr, hp] using h⟩
  | some w =>
    have h' : present w { s with port := none } = .next t := by
      simpa [step, blockStep, hr, hp] using h
    cases hd : decode w with
    | error e => simp [present, hd] at h'
    | ok i =>
      have ho : State.dacOutstanding { s with port := none } = s.dacOutstanding := rfl
      simp only [present, hd, ho] at h'
      by_cases hs : s.dacOutstanding = true
      · simp [hs] at h'
      · have hs' : s.dacOutstanding = false := by simpa using hs
        rw [if_neg hs] at h'
        exact .inl ⟨w, i, rfl, hd, hs', h'⟩

/-- With nothing at the port the step is the agents' turn. -/
theorem step_of_no_port {s : State} (hr : s.refused = false) (hp : s.port = none) : step s = engineTurn s := by
  simp [step, blockStep, hr, hp]

/-- With a word at the port the step presents it, the port emptied. -/
theorem step_of_port {s : State} {w : CommandWord} (hr : s.refused = false) (hp : s.port = some w) :
    step s = present w { s with port := none } := by
  unfold step blockStep
  rw [hr, hp]
  rfl

/-- What is outstanding in DACX depends on DACX alone. -/
theorem dacOutstanding_congr {s t : State} (h : s.dacx = t.dacx) : s.dacOutstanding = t.dacOutstanding := by
  simp [State.dacOutstanding, h]

end Sys2Proof.Machine
end

