-- ==== Sys2Proof/Tests/Slice0.lean ====
section
/-!
SUPPORT. Small tests: words written out bit by bit, the vectors of 95_test_vectors.md, and a state and operands
that meet the hypotheses of each statement.
-/

namespace Sys2Proof.Tests

open Sys2Proof Sys2Proof.Machine

/-! ## Well-formedness: an ill-formed command for each check -/

theorem test_wf_refuses_negative_position : (Instr.lcdP2r (-1)).WellFormed = false := by decide
theorem test_wf_refuses_position_256 : (Instr.lcdP2r 256).WellFormed = false := by decide
theorem test_wf_refuses_write_at_256 : (Instr.lcdWrite 0x30 256).WellFormed = false := by decide
theorem test_wf_refuses_write_at_negative : (Instr.lcdWrite 0x30 (-1)).WellFormed = false := by decide
theorem test_wf_accepts_ends : (Instr.lcdP2r 0).WellFormed = true ∧ (Instr.lcdWrite 0xFF 255).WellFormed = true := by
  decide

/-! ## Words, bit by bit from the formats of 30_encoding.md R82 (OP, then ARG) -/

theorem test_decode_dac_init : decode 0b0001_0000_0000_0000_0000 = .ok .dacInit := by decide
theorem test_decode_dac_write : decode 0b0010_0000_1010_1011_1100 = .ok (.dacWrite 2748) := by decide
theorem test_decode_lcd_init : decode 0b0100_0000_0000_0000_0000 = .ok .lcdInit := by decide
theorem test_decode_lcd_c2s : decode 0b0101_0011_1001_0000_0000 = .ok (.lcdC2s 0x39) := by decide
theorem test_decode_lcd_p2r : decode 0b0110_0000_0000_1000_0000 = .ok (.lcdP2r 128) := by decide
theorem test_decode_lcd_write : decode 0b0111_0011_0101_0000_0101 = .ok (.lcdWrite 0x35 5) := by decide

/-- The reserved words E2, E4, E5, E7, E9, E13, E16, E17 and E18. -/
theorem test_decode_reserved :
    decode 0x10001 = .error .argumentNotZero ∧ decode 0x21000 = .error .aboveSampleNotZero ∧
    decode 0x2F000 = .error .aboveSampleNotZero ∧ decode 0x48000 = .error .argumentNotZero ∧
    decode 0x53001 = .error .belowCharacterNotZero ∧ decode 0x60100 = .error .abovePositionNotZero ∧
    decode 0x00000 = .error .opcode ∧ decode 0x30000 = .error .opcode ∧ decode 0xFFFFF = .error .opcode := by
  decide

/-- A number of more than 20 bits is no command word, and none is cut down to one. -/
theorem test_no_truncation : decodeTableWord 24 0x110000 = none ∧ decodeTableWord 24 0x10000 = some .dacInit := by
  decide

/-! ## Small states -/

/-- DACX after DAC.INIT, in one state of the sequencer, with the frame of sample 2748 (0x2AF0). -/
def dacAt (h : Hsq) (csN : Bit) (shreg : Byte) (xferDone shifting : Bool) : Dacx where
  hsq := h
  frame := 0x2AF0
  csN := csN
  sbc := { mstrEn := 1, busEn := 1, clkSel := Config.dacClkSelInit, dblSpd := Config.dacDblSpdInit }
  xferDone := xferDone
  data := 0x00
  shreg := shreg
  shifting := shifting
  initRunning := false
  dacInited := true

/-- The states of 95_test_vectors.md section 2.3. -/
def idle : Dacx := dacAt .idle 1 0x00 true false
def selected : Dacx := dacAt .selected 0 0x00 true false
def sendingMsb : Dacx := dacAt .sendingMsb 0 0x2A false true
def sentMsb : Dacx := dacAt .sendingMsb 0 0x2A true false
def msbDone : Dacx := dacAt .msbDone 0 0x2A true false
def sendingLsb : Dacx := dacAt .sendingLsb 0 0xF0 false true
def sentLsb : Dacx := dacAt .sendingLsb 0 0xF0 true false
def lsbDone : Dacx := dacAt .lsbDone 0 0xF0 true false

/-- LCDX after LCD.INIT, every cell at one byte. -/
def lcdAll (b : Byte) : Lcdx where
  cells := (List.range 12).map fun a => (a, b)
  lcr := lcrInitial
  lcdInited := true

/-- A state with a given DACX, LCDX at zero, draws as given. -/
def at_ (d : Dacx) (wcol done : List Bool) : State :=
  { State.reset with dacx := d, lcdx := lcdAll 0x00, env := { wcol := wcol, rx := [0x5A], done := done, drawn := 0 } }

/-- Both sub-blocks initialised, nothing outstanding. -/
def ready : State := at_ idle [] []

/-- The trace a step leaves, the cell it leaves at an index, and so on; `none` where it stopped. -/
def traceAfter : Host.Outcome State Fault Refusal → Option (List Event)
  | .next s => some s.trace
  | _ => none

def cellAfter (a : Nat) : Host.Outcome State Fault Refusal → Option Byte
  | .next s => s.lcdx.cells.read a
  | _ => none

def frameAfter : Host.Outcome State Fault Refusal → Option Frame
  | .next s => some s.dacx.frame
  | _ => none

def refusalOf : Host.Outcome State Fault Refusal → Option Refusal
  | .refused r => some r
  | _ => none

/-! ## Vectors of the spec -/

/-- D15: `DAC.WRITE 4095` makes the frame 0x3FFC and lowers chip-select; D2: `DAC.WRITE 1` the frame 0x0004. -/
theorem test_write_4095 : frameAfter (exec (.dacWrite 4095) ready) = some 0x3FFC ∧
    traceAfter (exec (.dacWrite 4095) ready) = some [.cs 0] := by decide
theorem test_write_1 : frameAfter (exec (.dacWrite 1) ready) = some 0x0004 := by decide

/-- D17: with the first draw 1 the diagnostic is logged and the upper byte loaded all the same. -/
theorem test_collision_logged : traceAfter (step (at_ selected [true] [])) = some [.diag .collision .first] := by
  decide

/-- 2.3 step 3: the completion emits the byte in flight. -/
theorem test_completion : traceAfter (step (at_ sendingMsb [] [true])) = some [.tx 0x2A] := by decide

/-- D20: no completion, no event. -/
theorem test_hang : traceAfter (step (at_ sendingMsb [] [false])) = some [] := by decide

/-- 2.3 step 8. -/
theorem test_last_step : traceAfter (step (at_ lsbDone [] [])) = some [.cs 1, .resp .dacWrite .done] := by decide

/-- D22 and X6: a WRITE as the first command after reset is refused. -/
theorem test_write_before_init :
    refusalOf (step (State.reset.withFetchWord 20 0x20005)) = some .dacNotInitialised ∧
    refusalOf (step (State.reset.withFetchWord 20 0x73903)) = some .lcdNotInitialised := by decide

/-- D24: a second command while the sequencer is not idle is refused, an LCD command too. -/
theorem test_second_command :
    refusalOf (step ((at_ sendingMsb [] []).withFetchWord 20 0x20005)) = some .commandOutstanding ∧
    refusalOf (step ((at_ sendingMsb [] []).withFetchWord 20 0x60007)) = some .commandOutstanding := by decide

/-- D23: DAC.INIT as the first command after reset raises chip-select. -/
theorem test_dac_init : traceAfter (step (State.reset.withFetchWord 20 0x10000)) = some [.cs 1] := by decide

/-- P2: LCD.INIT zeroes the cells, the first and the last. -/
theorem test_lcd_init : cellAfter 0 (exec .lcdInit State.reset) = some 0x00 ∧
    cellAfter 11 (exec .lcdInit { ready with lcdx := lcdAll 0xFF }) = some 0x00 := by decide

/-- L5 and L7. -/
theorem test_c2s_nine : traceAfter (exec (.lcdC2s 0x39) State.reset) = some [.resp .lcdC2s (.pattern 0x0B51)] := by
  decide
theorem test_c2s_colon :
    traceAfter (exec (.lcdC2s 0x3A) State.reset) = some [.resp .lcdC2s (.error .invalidCharacter)] := by decide

/-- S10 and S11: 7 is (2, high); 1 and 8 are invalid; so is -1. -/
theorem test_p2r_seven : traceAfter (exec (.lcdP2r 7) State.reset) = some [.resp .lcdP2r (.reg 2 .high)] := by decide
theorem test_p2r_invalid : ∀ pos ∈ [1, 8, -1], traceAfter (exec (.lcdP2r pos) State.reset) =
    some [.resp .lcdP2r (.error .invalidPosition)] := by decide

/-- W12: `'9'` at position 7 over cells of 0xFF gives 0x1F, 0x5F, 0xBF, 0x0F in column 2. -/
theorem test_write_nine_at_7 : (List.map
    (fun a => cellAfter a (exec (.lcdWrite 0x39 7) { ready with lcdx := lcdAll 0xFF })) [2, 5, 8, 11]) =
    [some 0x1F, some 0x5F, some 0xBF, some 0x0F] := by decide

/-- X1, X2: an invalid operand is reported and the cells stay. -/
theorem test_write_invalid :
    traceAfter (exec (.lcdWrite 0x41 2) ready) = some [.err .invalidCharacter, .resp .lcdWrite .done] ∧
    traceAfter (exec (.lcdWrite 0x30 1) ready) = some [.err .invalidPosition, .resp .lcdWrite .done] ∧
    cellAfter 0 (exec (.lcdWrite 0x41 2) ready) = some 0x00 := by decide

/-- M5, M6 and M8. -/
theorem test_merge : mergeNibble 0xA7 .low 0x3 = 0xA3 ∧ mergeNibble 0xA7 .high 0x3 = 0x37 ∧
    mergeNibble 0x5B .high 0xF = 0xFB := by decide

/-- The codes of 10_state.md R30 and 60_exceptions.md R161. -/
theorem test_codes : Hsq.idle.code = 0 ∧ Hsq.lsbDone.code = 5 ∧ ErrorCode.invalidCharacter.code = 0b01 ∧
    ErrorCode.invalidPosition.code = 0b10 ∧ DiagCode.collision.code = 1 := by decide

/-- Most significant bit first, at the default of `BIT_ORDER`. -/
theorem test_wire_bits : wireBits Config.bitOrder 0x3F =
    [false, false, true, true, true, true, true, true] := by decide

/-! ## Witnesses: the hypotheses of each statement can be met -/

theorem dacInv_idle : DacInv idle := by constructor <;> simp [idle, dacAt]
theorem dacInv_selected : DacInv selected := by
  constructor <;> simp [selected, dacAt]
theorem dacInv_sendingMsb : DacInv sendingMsb := by
  constructor <;> simp [sendingMsb, dacAt]
  all_goals decide
theorem dacInv_sentMsb : DacInv sentMsb := by
  constructor <;> simp [sentMsb, dacAt]
  all_goals decide
theorem dacInv_msbDone : DacInv msbDone := by
  constructor <;> simp [msbDone, dacAt]
  all_goals decide
theorem dacInv_sendingLsb : DacInv sendingLsb := by
  constructor <;> simp [sendingLsb, dacAt]
  all_goals decide
theorem dacInv_sentLsb : DacInv sentLsb := by
  constructor <;> simp [sentLsb, dacAt]
  all_goals decide
theorem dacInv_lsbDone : DacInv lsbDone := by
  constructor <;> simp [lsbDone, dacAt]
  all_goals decide
theorem dacInv_initRunning : DacInv { idle with initRunning := true } := by
  constructor <;> simp [idle, dacAt]
theorem lcdInv_all (b : Byte) : LcdInv (lcdAll b) := ⟨rfl, fun _ => rfl⟩

theorem witness_WellFormedCommandsRoundTrip :
    (Instr.lcdWrite 0x35 5).WellFormed = true ∧ (Instr.lcdP2r 255).WellFormed = true := by decide
theorem witness_DecodedWordsEncodeBack : decode 0x60008 = .ok (.lcdP2r 8) := by decide
/-- One reserved word for each clause of the list, at the edge of its range. -/
theorem witness_ReservedWordsAreTheListedOnes :
    matchesTable 0x00000 = false ∧ matchesTable 0x30000 = false ∧ matchesTable 0x80000 = false ∧
    matchesTable 0x10001 = false ∧ matchesTable 0x48000 = false ∧ matchesTable 0x21000 = false ∧
    matchesTable 0x53001 = false ∧ matchesTable 0x60100 = false ∧ matchesTable 0x7FFFF = true := by decide
theorem witness_StepRunsTheDecodedCommand : ∃ (s : State) (w : CommandWord) (i : Instr), s.refused = false ∧
    s.dacOutstanding = false ∧ s.port = some w ∧ decode w = .ok i :=
  ⟨ready.withFetchWord 20 0x73904, 0x73904, .lcdWrite 0x39 4, rfl, rfl, rfl, by decide⟩
theorem witness_PlacedCommandRunsNext : ready.refused = false ∧ ready.dacOutstanding = false ∧
    (Instr.dacWrite 4095).WellFormed = true := by decide
theorem witness_ReservedWordRefused : ∃ s : State, s.refused = false ∧ s.port = some 0x00000 ∧
    decode 0x00000 = .error .opcode := ⟨ready.withFetchWord 20 0, rfl, rfl, by decide⟩
theorem witness_SecondCommandRefused_first : ∃ s t : State, s.refused = false ∧ s.dacOutstanding = true ∧
    s.port = none ∧ step s = .next t := ⟨at_ sentMsb [] [], _, rfl, rfl, rfl, rfl⟩
theorem witness_SecondCommandRefused_second : ∃ s : State, s.refused = false ∧ s.dacOutstanding = true ∧
    s.port = some 0x60007 ∧ decode 0x60007 = .ok (.lcdP2r 7) :=
  ⟨(at_ sendingMsb [] []).withFetchWord 20 0x60007, rfl, rfl, rfl, by decide⟩
theorem witness_RefusalMarksTheRunForEver : (∃ s : State, step s = .refused .dacNotInitialised) ∧
    (∃ s : State, s.refused = true) ∧ ∃ s t : State, step s = .next t :=
  ⟨⟨State.reset.withFetchWord 20 0x20005, rfl⟩, ⟨ready.markRefused, rfl⟩, ⟨ready, ready, rfl⟩⟩
theorem witness_IdleBlockWaitsForTheHost : ready.refused = false ∧ ready.port = none ∧
    ready.dacOutstanding = false ∧ ready.dacx.shifting = false ∧ ready.script = [] ∧
    ∃ s : State, s.refused = false ∧ s.port = none ∧ s.dacOutstanding = false ∧ s.dacx.shifting = false ∧
      s.script = 0x40000 :: [] :=
  ⟨rfl, rfl, rfl, rfl, rfl, { ready with script := [0x40000] }, rfl, rfl, rfl, rfl, rfl⟩
theorem witness_DacInitConfigures : (at_ lsbDone [] []).dacx.hsq ≠ .idle ∧ State.reset.dacx.hsq = .idle ∧ State.reset.dacx.initRunning = false :=
  ⟨by decide, rfl, rfl⟩
theorem witness_IdleToSelected : ready.dacx.hsq = .idle ∧ ready.dacx.initRunning = false ∧
    ready.dacx.dacInited = true ∧
    ∃ s : State, DacInv s.dacx ∧ s.refused = false ∧ s.port = none ∧ s.dacx.hsq = .idle ∧
      s.dacx.initRunning = true :=
  ⟨rfl, rfl, rfl, { ready with dacx := { idle with initRunning := true } }, dacInv_initRunning, rfl, rfl, rfl, rfl⟩
theorem witness_DacAdmission : ((at_ selected [] []).dacx.hsq ≠ .idle ∨ (at_ selected [] []).dacx.initRunning = true) ∧
    (ready.dacx.hsq = .idle ∧ ready.dacx.initRunning = false ∧ ready.dacx.dacInited = true) ∧
    ({ idle with initRunning := true : Dacx }.hsq = .idle ∧ { idle with initRunning := true : Dacx }.initRunning = true) ∧
    (State.reset.dacx.hsq = .idle ∧ State.reset.dacx.initRunning = false ∧ State.reset.dacx.dacInited = false) := by
  decide
theorem witness_SelectedToSendingMsb : ∃ s : State, DacInv s.dacx ∧ s.refused = false ∧ s.port = none ∧
    s.dacx.hsq = .selected := ⟨at_ selected [true] [], dacInv_selected, rfl, rfl, rfl⟩
theorem witness_CompletionWaits_msb : ∃ s : State, DacInv s.dacx ∧ s.refused = false ∧ s.port = none ∧
    s.dacx.hsq = .sendingMsb ∧ s.dacx.xferDone = true := ⟨at_ sentMsb [] [], dacInv_sentMsb, rfl, rfl, rfl, rfl⟩
theorem witness_CompletionWaits_lsb : ∃ s : State, DacInv s.dacx ∧ s.refused = false ∧ s.port = none ∧
    s.dacx.hsq = .sendingLsb ∧ s.dacx.xferDone = true := ⟨at_ sentLsb [] [], dacInv_sentLsb, rfl, rfl, rfl, rfl⟩
theorem witness_CompletionWaits_held : ∃ s : State, DacInv s.dacx ∧ s.refused = false ∧ s.port = none ∧
    (s.dacx.hsq = .sendingMsb ∨ s.dacx.hsq = .sendingLsb) ∧ s.dacx.xferDone = false ∧ s.env.drawDone.1 = false :=
  ⟨at_ sendingLsb [] [false], dacInv_sendingLsb, rfl, rfl, .inr rfl, rfl, rfl⟩
theorem witness_MsbDoneToSendingLsb : ∃ s : State, DacInv s.dacx ∧ s.refused = false ∧ s.port = none ∧
    s.dacx.hsq = .msbDone := ⟨at_ msbDone [true] [], dacInv_msbDone, rfl, rfl, rfl⟩
theorem witness_LsbDoneToIdle : ∃ s : State, DacInv s.dacx ∧ s.refused = false ∧ s.port = none ∧
    s.dacx.hsq = .lsbDone := ⟨at_ lsbDone [] [], dacInv_lsbDone, rfl, rfl, rfl⟩
theorem witness_LoadStartsTransfer : ready.dacx.shifting = false := rfl
theorem witness_TransferCompletes : ∃ s : State, s.refused = false ∧ s.port = none ∧ s.dacx.shifting = true ∧
    s.env.drawDone.1 = true := ⟨at_ sendingMsb [] [true], rfl, rfl, rfl, rfl⟩
theorem witness_LoadInFlightRefused : ∃ s : State, s.dacx.shifting = true ∧ s.refused = false ∧ s.port = none ∧
    s.env.drawDone.1 = false ∧ (s.dacx.hsq = .selected ∨ s.dacx.hsq = .msbDone) :=
  ⟨at_ { selected with shifting := true } [] [false], rfl, rfl, rfl, rfl, .inl rfl⟩
theorem witness_WriteSendsBothBytes : ∃ s : State, DacInv s.dacx ∧ s.refused = false ∧ s.dacx.hsq = .idle ∧
    s.dacx.initRunning = false ∧ s.dacx.dacInited = true ∧ s.env.wcol = true :: false :: [] ∧
    s.env.done = List.replicate 1 false ++ true :: (List.replicate 0 false ++ true :: []) :=
  ⟨at_ idle [true, false] [false, true, true], dacInv_idle, rfl, rfl, rfl, rfl, rfl, rfl⟩
theorem witness_InitSendsTheZeroFrame : ∃ s : State, DacInv s.dacx ∧ s.refused = false ∧ s.dacx.hsq = .idle ∧
    s.dacx.initRunning = false ∧ s.env.wcol = false :: true :: [] ∧
    s.env.done = List.replicate 0 false ++ true :: (List.replicate 2 false ++ true :: []) :=
  ⟨at_ idle [false, true] [true, false, false, true], dacInv_idle, rfl, rfl, rfl, rfl, rfl⟩
theorem witness_UnresponsiveBusHolds : ∃ s : State, DacInv s.dacx ∧ s.refused = false ∧ s.port = none ∧
    (s.dacx.hsq = .sendingMsb ∨ s.dacx.hsq = .sendingLsb) ∧ s.dacx.xferDone = false ∧
    s.env.done = List.replicate 3 false ++ [] :=
  ⟨at_ sendingMsb [] [false, false, false], dacInv_sendingMsb, rfl, rfl, .inl rfl, rfl, rfl⟩
theorem witness_CollisionOnlyLogs : ∃ (s : State), DacInv s.dacx ∧ s.refused = false ∧ s.port = none ∧
    (s.dacx.hsq = .selected ∨ s.dacx.hsq = .msbDone) := ⟨at_ msbDone [true] [], dacInv_msbDone, rfl, rfl, .inr rfl⟩
theorem witness_SequencerFollowsItsArrows : (∃ t, step (at_ sentMsb [] []) = .next t) ∧
    (at_ sentMsb [] []).dacx.hsq ≠ .idle := ⟨⟨_, rfl⟩, by decide⟩
theorem witness_FrameIsCaptured : ∃ s t : State, s.dacx.hsq ≠ .idle ∧ step s = .next t :=
  ⟨at_ selected [false] [], _, by decide, rfl⟩
theorem witness_SerialControlWrittenByInitAlone : ∃ s t : State, step s = .next t ∧ t.dacx.sbc ≠ s.dacx.sbc :=
  ⟨State.withFetchWord { ready with dacx := { idle with
    sbc := { mstrEn := 0, busEn := 0, clkSel := Config.dacClkSelInit, dblSpd := 0 } } } 20 0x10000, _, rfl,
    fun h => absurd (congrArg Sbc.mstrEn h) (by decide)⟩
theorem witness_DacOperationsFrame : (∃ t, exec .dacInit ready = .next t) ∧ ∃ t, exec (.dacWrite 64) ready = .next t :=
  ⟨⟨_, rfl⟩, ⟨_, rfl⟩⟩
theorem witness_C2sResult : glyph 0x39 = some 0x0B51 ∧ glyph 0x3A = none ∧ glyph 0x2F = none := by decide
/-- The two clauses of LCD.P2R and of the mapper at the ends of their ranges. -/
theorem witness_P2rResult : positionToRegister 2 = some (0, .low) ∧ positionToRegister 7 = some (2, .high) ∧
    positionToRegister 1 = none ∧ positionToRegister 8 = none := by decide
theorem witness_WriteShowsTheCharacter : ready.lcdx.lcdInited = true ∧
    glyph 0x30 = some 0x1551 ∧ (2 ≤ (7 : Int) ∧ (7 : Int) ≤ 7) := by decide
theorem witness_InvalidWriteOnlyReports : ready.lcdx.lcdInited = true ∧ glyph 0x41 = none ∧
    glyph 0x30 = some 0x1551 ∧ (2 ≤ (2 : Int) ∧ (2 : Int) ≤ 7) ∧ ((1 : Int) < 2 ∨ 7 < (1 : Int)) ∧
    ((8 : Int) < 2 ∨ 7 < (8 : Int)) := by decide
theorem witness_LcdAdmission : State.reset.lcdx.lcdInited = false ∧ ready.lcdx.lcdInited = true := by
  decide
theorem witness_UseBeforeInitRefused :
    (∃ s : State, s.refused = false ∧ s.dacOutstanding = false ∧ s.port = some 0x20005 ∧
      decode 0x20005 = .ok (.dacWrite 5) ∧ s.dacx.dacInited = false) ∧
    (∃ s : State, s.refused = false ∧ s.dacOutstanding = false ∧ s.port = some 0x73903 ∧
      decode 0x73903 = .ok (.lcdWrite 0x39 3) ∧ s.lcdx.lcdInited = false) :=
  ⟨⟨State.reset.withFetchWord 20 0x20005, rfl, rfl, rfl, by decide, rfl⟩,
    ⟨State.reset.withFetchWord 20 0x73903, rfl, rfl, rfl, by decide, rfl⟩⟩
theorem witness_WritingTwiceIsWritingOnce : LcdInv ready.lcdx ∧ ready.lcdx.lcdInited = true ∧
    ∃ pat, glyph 0x30 = some pat := ⟨lcdInv_all 0x00, rfl, 0x1551, by decide⟩
theorem witness_WritesToDifferentPositionsCommute : LcdInv ready.lcdx ∧ ready.lcdx.lcdInited = true ∧
    (5 : Int) ≠ 4 ∧ (2 ≤ (5 : Int) ∧ (5 : Int) ≤ 7) ∧ (2 ≤ (4 : Int) ∧ (4 : Int) ≤ 7) ∧
    (∃ s₁, glyph 0x35 = some s₁) ∧ ∃ s₂, glyph 0x33 = some s₂ :=
  ⟨lcdInv_all 0x00, rfl, by decide, by decide, by decide, ⟨Config.seg5, rfl⟩, ⟨Config.seg3, rfl⟩⟩
theorem witness_LcdOperationsFrame : isLcd (.lcdWrite 0x39 7) = true ∧
    (∃ t, exec (.lcdWrite 0x39 7) ready = .next t) ∧ (∃ t, exec (.lcdC2s 0x39) ready = .next t) ∧
    (∃ t, exec (.lcdP2r 7) ready = .next t) ∧ positionToRegister 7 = some (2, .high) ∧
    (∃ t, exec (.lcdWrite 0x41 8) ready = .next t) ∧ positionToRegister 8 = none :=
  ⟨rfl, ⟨_, rfl⟩, ⟨_, rfl⟩, ⟨_, rfl⟩, by decide, ⟨_, rfl⟩, by decide⟩
theorem witness_SubBlocksShareNothing : (isLcd (.lcdP2r 7) = true ∧ ∃ t, exec (.lcdP2r 7) ready = .next t) ∧
    (isLcd .dacInit = false ∧ ∃ t, exec .dacInit ready = .next t) ∧ ∃ t, engineTurn (at_ sentMsb [] []) = .next t :=
  ⟨⟨rfl, _, rfl⟩, ⟨rfl, _, rfl⟩, ⟨_, rfl⟩⟩
theorem witness_SubBlockStepsCommute : isLcd (.lcdWrite 0x31 4) = true ∧
    (∃ a, engineTurn (at_ sendingMsb [] [true]) = .next a) ∧
    ∃ b, exec (.lcdWrite 0x31 4) (at_ sendingMsb [] [true]) = .next b := ⟨rfl, ⟨_, rfl⟩, ⟨_, rfl⟩⟩
theorem witness_StepKeepsDacInv : ∃ s t : State, DacInv s.dacx ∧ step s = .next t :=
  ⟨at_ selected [false] [], _, dacInv_selected, rfl⟩
theorem witness_StepKeepsLcdInv : ∃ s t : State, LcdInv s.lcdx ∧ step s = .next t :=
  ⟨ready.withFetchWord 20 0x73904, _, lcdInv_all 0x00, rfl⟩
theorem witness_StepKeepsBusProtocol : ∃ s t : State, DacInv s.dacx ∧ BusInv s ∧ step s = .next t :=
  ⟨{ at_ sendingMsb [] [true] with trace := [.cs 0] }, _, dacInv_sendingMsb, rfl, rfl⟩
theorem witness_StepKeepsHostInv : ∃ s t : State, HostInv s ∧ step s = .next t :=
  ⟨ready.withFetchWord 20 0x20040, _, fun h => absurd h (by decide), rfl⟩
theorem witness_SingleCallerIsRefusedForNothingElse : ∃ s : State, DacInv s.dacx ∧ HostInv s ∧
    s.refused = false ∧ step s = .refused (.reservedWord .opcode) :=
  ⟨ready.withFetchWord 20 0, dacInv_idle, fun h => absurd h (by decide), rfl, rfl⟩
theorem witness_CellsWrittenByLcdInitAndWriteAlone : ∃ s t : State, step s = .next t ∧
    ∃ a, t.lcdx.cells.read a ≠ s.lcdx.cells.read a :=
  ⟨ready.withFetchWord 20 0x73904, _, rfl, 1, by decide⟩
theorem witness_TraceIsHistory : ∃ s t : State, step s = .next t ∧ t.trace ≠ s.trace :=
  ⟨at_ lsbDone [] [], _, rfl, by decide⟩

end Sys2Proof.Tests
end

/-!
PROOFS. Noninterference of the two sub-blocks (00_scope.md R2): an operation of one sub-block commutes with putting
any other value into the other one's state. From this alone it follows that it does not write that state either.
-/

namespace Sys2Proof.Machine

/-! ## Another sub-block's state put in place -/

/-- The state with another DACX. -/
def State.putDacx (d : Dacx) (s : State) : State := { s with dacx := d }

/-- The state with another LCDX. -/
def State.putLcdx (l : Lcdx) (s : State) : State := { s with lcdx := l }

@[simp] theorem State.putLcdx_dacx (l : Lcdx) (s : State) : (s.putLcdx l).dacx = s.dacx := rfl

/-- `f` does not see what `put` changes: run from the changed state it stops where it stopped before, and else
answers what it answered before, changed in the same way. -/
def Ignores (put : State → State) (f : State → Host.Outcome State Fault Refusal) : Prop :=
  ∀ s, f (put s) = andThen (f s) fun t => .next (put t)

theorem Ignores.next {put : State → State} {f : State → Host.Outcome State Fault Refusal} (hf : Ignores put f)
    {s t : State} (h : f s = .next t) : f (put s) = .next (put t) := by
  rw [hf s, h, andThen_next]

/-! ## Blindness of an operation from the blindness of its parts -/

section
variable {put : State → State} {f g : State → Host.Outcome State Fault Refusal} {h : State → State}

theorem ignores_refused (r : Refusal) : Ignores put fun _ => .refused r := fun _ => rfl

theorem ignores_next (hh : ∀ s, h (put s) = put (h s)) : Ignores put fun s => .next (h s) :=
  fun s => congrArg Host.Outcome.next (hh s)

theorem Ignores.after (hf : Ignores put f) (hh : ∀ s, h (put s) = put (h s)) : Ignores put fun s => f (h s) := by
  intro s
  show f (h (put s)) = _
  rw [hh, hf]

theorem Ignores.ite {c : State → Bool} (hc : ∀ s, c (put s) = c s) (hf : Ignores put f) (hg : Ignores put g) :
    Ignores put fun s => if c s then f s else g s := by
  intro s
  cases hs : c s with
  | true => simpa only [hc, hs, if_true] using hf s
  | false => simpa only [hc, hs, Bool.false_eq_true, if_false] using hg s

theorem ignores_next_or_stay {c : State → Bool} (hc : ∀ s, c (put s) = c s) (hh : ∀ s, h (put s) = put (h s)) :
    Ignores put fun s => if c s then .next (h s) else .next s :=
  .ite hc (ignores_next hh) (ignores_next (h := id) fun _ => rfl)

end

/-! ## Blindness is noninterference -/

/-- An operation that is blind to DACX does not write it either: put the DACX that stands there. -/
theorem dacx_noninterference {f : State → Host.Outcome State Fault Refusal}
    (hf : ∀ d, Ignores (State.putDacx d) f) {s t : State} (h : f s = .next t) (d : Dacx) :
    t.dacx = s.dacx ∧ f { s with dacx := d } = .next { t with dacx := d } := by
  have same : f s = .next (t.putDacx s.dacx) := (hf s.dacx).next h
  rw [h] at same
  injection same with same
  exact ⟨by rw [same]; rfl, (hf d).next h⟩

/-- An operation that is blind to LCDX does not write it either: put the LCDX that stands there. -/
theorem lcdx_noninterference {f : State → Host.Outcome State Fault Refusal}
    (hf : ∀ l, Ignores (State.putLcdx l) f) {s t : State} (h : f s = .next t) (l : Lcdx) :
    t.lcdx = s.lcdx ∧ f { s with lcdx := l } = .next { t with lcdx := l } := by
  have same : f s = .next (t.putLcdx s.lcdx) := (hf s.lcdx).next h
  rw [h] at same
  injection same with same
  exact ⟨by rw [same]; rfl, (hf l).next h⟩

/-! ## The LCD operations are blind to DACX -/

theorem execLcdInit_ignores_dacx (d : Dacx) : Ignores (State.putDacx d) execLcdInit := fun _ => rfl

theorem execLcdC2s_ignores_dacx (c : Byte) (d : Dacx) : Ignores (State.putDacx d) (execLcdC2s c) := by
  intro s
  rw [execLcdC2s_eq, execLcdC2s_eq]
  rfl

theorem execLcdP2r_ignores_dacx (pos : Int) (d : Dacx) : Ignores (State.putDacx d) (execLcdP2r pos) := by
  intro s
  rw [execLcdP2r_eq, execLcdP2r_eq]
  rfl

theorem execLcdWrite_ignores_dacx (c : Byte) (pos : Int) (d : Dacx) :
    Ignores (State.putDacx d) (execLcdWrite c pos) := by
  intro s
  have hput : (s.putDacx d).lcdx.lcdInited = s.lcdx.lcdInited := rfl
  cases hi : s.lcdx.lcdInited with
  | true =>
    obtain ⟨f, es, hw, -⟩ := execLcdWrite_spec c pos
    rw [hw s hi, hw _ (hput.trans hi)]
    rfl
  | false => rw [execLcdWrite_refused hi, execLcdWrite_refused (hput.trans hi), andThen_refused]

theorem exec_lcd_ignores_dacx {i : Instr} (hi : isLcd i = true) (d : Dacx) :
    Ignores (State.putDacx d) (exec i) := by
  cases i with
  | dacInit => cases hi
  | dacWrite v => cases hi
  | lcdInit => exact execLcdInit_ignores_dacx d
  | lcdC2s c => exact execLcdC2s_ignores_dacx c d
  | lcdP2r pos => exact execLcdP2r_ignores_dacx pos d
  | lcdWrite c pos => exact execLcdWrite_ignores_dacx c pos d

/-! ## The DAC operations are blind to LCDX -/

theorem execDacInit_ignores_lcdx (l : Lcdx) : Ignores (State.putLcdx l) execDacInit :=
  .ite (fun _ => rfl) (ignores_refused _) (ignores_next fun _ => rfl)

theorem execDacWrite_ignores_lcdx (v : Sample) (l : Lcdx) : Ignores (State.putLcdx l) (execDacWrite v) :=
  .ite (fun _ => rfl) (ignores_refused _) (.ite (fun _ => rfl) (ignores_next fun _ => rfl) (ignores_refused _))

theorem exec_dac_ignores_lcdx {i : Instr} (hi : isLcd i = false) (l : Lcdx) :
    Ignores (State.putLcdx l) (exec i) := by
  cases i with
  | dacInit => exact execDacInit_ignores_lcdx l
  | dacWrite v => exact execDacWrite_ignores_lcdx v l
  | lcdInit => cases hi
  | lcdC2s c => cases hi
  | lcdP2r pos => cases hi
  | lcdWrite c pos => cases hi

/-! ## DACX's turns are blind to LCDX -/

theorem toSendingMsb_ignores_lcdx (l : Lcdx) : Ignores (State.putLcdx l) toSendingMsb := by
  intro s
  simp only [toSendingMsb, loadData, State.inspect_eq, State.putLcdx_dacx]
  split <;> rfl

theorem toSendingLsb_ignores_lcdx (l : Lcdx) : Ignores (State.putLcdx l) toSendingLsb := by
  intro s
  simp only [toSendingLsb, loadData, State.inspect_eq, State.putLcdx_dacx]
  split <;> rfl

theorem sequencerTurn_ignores_lcdx (l : Lcdx) : Ignores (State.putLcdx l) sequencerTurn := by
  intro s
  cases hq : s.dacx.hsq <;> simp only [sequencerTurn, State.putLcdx_dacx, hq]
  case idle =>
    exact ignores_next_or_stay (put := State.putLcdx l) (c := (·.dacx.initRunning)) (h := toSelected 0)
      (fun _ => rfl) (fun _ => rfl) s
  case selected => exact toSendingMsb_ignores_lcdx l s
  case sendingMsb =>
    exact ignores_next_or_stay (put := State.putLcdx l) (c := (·.dacx.xferDone)) (h := toMsbDone)
      (fun _ => rfl) (fun _ => rfl) s
  case msbDone => exact toSendingLsb_ignores_lcdx l s
  case sendingLsb =>
    exact ignores_next_or_stay (put := State.putLcdx l) (c := (·.dacx.xferDone)) (h := toLsbDone)
      (fun _ => rfl) (fun _ => rfl) s
  case lsbDone => rfl

theorem hostTurn_putLcdx (l : Lcdx) (s : State) : hostTurn (s.putLcdx l) = (hostTurn s).putLcdx l := by
  have hput : (s.putLcdx l).script = s.script := rfl
  cases hs : s.script with
  | nil => simp only [hostTurn, hput, hs]
  | cons w rest => simp only [hostTurn, hput, hs]; rfl

theorem otherTurn_ignores_lcdx (l : Lcdx) : Ignores (State.putLcdx l) otherTurn :=
  .ite (fun _ => rfl) (sequencerTurn_ignores_lcdx l) (ignores_next (hostTurn_putLcdx l))

theorem engineTurn_ignores_lcdx (l : Lcdx) : Ignores (State.putLcdx l) engineTurn :=
  .ite (c := fun s => s.dacx.shifting) (fun _ => rfl)
    (.ite (c := fun s => s.env.drawDone.1) (fun _ => rfl) (ignores_next fun _ => rfl)
      ((otherTurn_ignores_lcdx l).after fun _ => rfl))
    (otherTurn_ignores_lcdx l)

/-- Settles O43: each operation and each turn is blind to the other sub-block's state, and so does not write it. -/
theorem subBlocksShareNothing : Obligations.SubBlocksShareNothing :=
  ⟨fun _ _ _ d hi h => dacx_noninterference (exec_lcd_ignores_dacx hi) h d,
    fun _ _ _ l hi h => lcdx_noninterference (exec_dac_ignores_lcdx hi) h l,
    fun _ _ l h => lcdx_noninterference engineTurn_ignores_lcdx h l⟩

end Sys2Proof.Machine

/-!
PROOFS. What every step keeps. The history of a run, its trace and its mark (10_state.md section 7), is never read
by an operation or a turn; a step of DACX is a turn of the sequencer or DAC.INIT (10_state.md R21, R31, R37); a step
that touches LCDX runs LCD.INIT or LCD.WRITE (10_state.md R24, R27, R41).
-/

namespace Sys2Proof.Machine

/-! ## The history of a run -/

/-- The state with another history: the run marked by `b`, and `tr` put before its trace. -/
def State.putHistory (b : Bool) (tr : List Event) (s : State) : State :=
  { s with refused := b, trace := tr ++ s.trace }

@[simp] theorem State.putHistory_dacx (b : Bool) (tr : List Event) (s : State) :
    (s.putHistory b tr).dacx = s.dacx := rfl

@[simp] theorem State.putHistory_script (b : Bool) (tr : List Event) (s : State) :
    (s.putHistory b tr).script = s.script := rfl

/-- What puts a history in: nothing but the mark and the trace changes, and `tr` stands before the trace. -/
theorem State.eq_putHistory {b : Bool} {tr : List Event} {s t : State}
    (rest : { t with trace := [] } = { s with refused := b, trace := [] }) (trace : t.trace = tr ++ s.trace) :
    t = s.putHistory b tr := by
  cases t
  simp only [State.mk.injEq] at rest
  obtain ⟨rfl, rfl, rfl, -, rfl, rfl, rfl⟩ := rest
  exact congrArg (State.mk _ _ _ · _ _ _) trace

/-- Every state is the one with no history, its own put in. -/
theorem State.putHistory_self (s : State) : State.putHistory s.refused s.trace { s with trace := [] } = s := by
  simp only [State.putHistory, List.append_nil]

/-- An operation that is blind to the history appends to the trace events of its own and leaves the mark: run it
with no history and put the one in. -/
theorem history_noninterference {f : State → Host.Outcome State Fault Refusal}
    (hf : ∀ b tr, Ignores (State.putHistory b tr) f) {s t : State} (h : f s = .next t) :
    t.refused = s.refused ∧ ∃ es : List Event, t.trace = s.trace ++ es ∧
      ∀ tr, f { s with trace := tr } = .next { t with trace := tr ++ es } := by
  have from_none := hf s.refused s.trace { s with trace := [] }
  rw [State.putHistory_self, h, eq_comm, andThen_eq_next] at from_none
  obtain ⟨u, hu, ht⟩ := from_none
  injection ht with ht
  subst ht
  refine ⟨rfl, u.trace, rfl, fun tr => ?_⟩
  have with_tr := (hf s.refused tr).next hu
  simpa only [State.putHistory, List.append_nil] using with_tr

/-! ## The operations are blind to the history -/

section
variable (b : Bool) (tr : List Event)

theorem toSelected_putHistory (v : Sample) (s : State) :
    toSelected v (s.putHistory b tr) = (toSelected v s).putHistory b tr :=
  State.eq_putHistory rfl (List.append_assoc ..)

theorem execDacInit_ignores_history : Ignores (State.putHistory b tr) execDacInit :=
  .ite (fun _ => rfl) (ignores_refused _)
    (ignores_next fun _ => State.eq_putHistory rfl (List.append_assoc ..))

theorem execDacWrite_ignores_history (v : Sample) : Ignores (State.putHistory b tr) (execDacWrite v) :=
  .ite (fun _ => rfl) (ignores_refused _)
    (.ite (fun _ => rfl) (ignores_next (toSelected_putHistory b tr v)) (ignores_refused _))

theorem execLcdInit_ignores_history : Ignores (State.putHistory b tr) execLcdInit := by
  intro s
  rw [execLcdInit_eq, execLcdInit_eq, andThen_next]
  exact congrArg Host.Outcome.next (State.eq_putHistory rfl (List.append_assoc ..))

theorem execLcdC2s_ignores_history (c : Byte) : Ignores (State.putHistory b tr) (execLcdC2s c) := by
  intro s
  rw [execLcdC2s_eq, execLcdC2s_eq, andThen_next]
  exact congrArg Host.Outcome.next (State.eq_putHistory rfl (List.append_assoc ..))

theorem execLcdP2r_ignores_history (pos : Int) : Ignores (State.putHistory b tr) (execLcdP2r pos) := by
  intro s
  rw [execLcdP2r_eq, execLcdP2r_eq, andThen_next]
  exact congrArg Host.Outcome.next (State.eq_putHistory rfl (List.append_assoc ..))

theorem execLcdWrite_ignores_history (c : Byte) (pos : Int) :
    Ignores (State.putHistory b tr) (execLcdWrite c pos) := by
  intro s
  cases hi : s.lcdx.lcdInited with
  | true =>
    obtain ⟨f, es, hw, -⟩ := execLcdWrite_spec c pos
    rw [hw s hi, hw (s.putHistory b tr) hi, andThen_next]
    exact congrArg Host.Outcome.next (State.eq_putHistory rfl (List.append_assoc ..))
  | false => rw [execLcdWrite_refused hi, execLcdWrite_refused (s := s.putHistory b tr) hi, andThen_refused]

theorem exec_ignores_history (i : Instr) : Ignores (State.putHistory b tr) (exec i) := by
  cases i with
  | dacInit => exact execDacInit_ignores_history b tr
  | dacWrite v => exact execDacWrite_ignores_history b tr v
  | lcdInit => exact execLcdInit_ignores_history b tr
  | lcdC2s c => exact execLcdC2s_ignores_history b tr c
  | lcdP2r pos => exact execLcdP2r_ignores_history b tr pos
  | lcdWrite c pos => exact execLcdWrite_ignores_history b tr c pos

/-! ## The turns are blind to the history -/

theorem inspect_putHistory (i : InspectionPoint) (s : State) :
    (s.putHistory b tr).inspect i = (s.inspect i).putHistory b tr := by
  rw [State.inspect_eq, State.inspect_eq]
  exact State.eq_putHistory rfl (List.append_assoc ..)

theorem complete_putHistory (s : State) : (s.putHistory b tr).complete = s.complete.putHistory b tr :=
  State.eq_putHistory rfl (List.append_assoc ..)

theorem toIdle_putHistory (s : State) : toIdle (s.putHistory b tr) = (toIdle s).putHistory b tr := by
  rw [toIdle_eq, toIdle_eq]
  exact State.eq_putHistory rfl (List.append_assoc ..)

/-- An inspection, the load of one byte of the frame and a move: the shape of both loading transitions. -/
theorem inspectLoadMove_ignores_history (byteOf : Frame → Byte) (i : InspectionPoint) (h : Hsq) :
    Ignores (State.putHistory b tr) fun s =>
      andThen (loadData (byteOf s.dacx.frame) (s.inspect i)) fun s => .next (s.moveTo h) := by
  intro s
  simp only [inspect_putHistory, loadData, State.putHistory_dacx]
  split <;> rfl

theorem toSendingMsb_ignores_history : Ignores (State.putHistory b tr) toSendingMsb :=
  inspectLoadMove_ignores_history b tr highByte .first .sendingMsb

theorem toSendingLsb_ignores_history : Ignores (State.putHistory b tr) toSendingLsb :=
  inspectLoadMove_ignores_history b tr lowByte .second .sendingLsb

theorem sequencerTurn_ignores_history : Ignores (State.putHistory b tr) sequencerTurn := by
  intro s
  cases hq : s.dacx.hsq <;> simp only [sequencerTurn, State.putHistory_dacx, hq]
  case idle =>
    exact ignores_next_or_stay (put := State.putHistory b tr) (c := (·.dacx.initRunning)) (h := toSelected 0)
      (fun _ => rfl) (toSelected_putHistory b tr 0) s
  case selected => exact toSendingMsb_ignores_history b tr s
  case sendingMsb =>
    exact ignores_next_or_stay (put := State.putHistory b tr) (c := (·.dacx.xferDone)) (h := toMsbDone)
      (fun _ => rfl) (fun _ => rfl) s
  case msbDone => exact toSendingLsb_ignores_history b tr s
  case sendingLsb =>
    exact ignores_next_or_stay (put := State.putHistory b tr) (c := (·.dacx.xferDone)) (h := toLsbDone)
      (fun _ => rfl) (fun _ => rfl) s
  case lsbDone => exact ignores_next (toIdle_putHistory b tr) s

theorem hostTurn_putHistory (s : State) : hostTurn (s.putHistory b tr) = (hostTurn s).putHistory b tr := by
  cases hs : s.script with
  | nil => simp only [hostTurn, State.putHistory_script, hs]
  | cons w rest => simp only [hostTurn, State.putHistory_script, hs]; rfl

theorem otherTurn_ignores_history : Ignores (State.putHistory b tr) otherTurn :=
  .ite (fun _ => rfl) (sequencerTurn_ignores_history b tr) (ignores_next (hostTurn_putHistory b tr))

theorem engineTurn_ignores_history : Ignores (State.putHistory b tr) engineTurn :=
  .ite (c := fun s => s.dacx.shifting) (fun _ => rfl)
    (.ite (c := fun s => s.env.drawDone.1) (fun _ => rfl)
      (ignores_next fun s => complete_putHistory b tr { s with env := s.env.drawDone.2 })
      ((otherTurn_ignores_history b tr).after fun _ => rfl))
    (otherTurn_ignores_history b tr)

end

/-! ## The history along a step -/

/-- A step with an admitted command's word at the port is that command's meaning, the port emptied. -/
theorem step_of_admitted {s : State} {w : CommandWord} {i : Instr} (hr : s.refused = false) (hp : s.port = some w)
    (hd : decode w = .ok i) (ho : s.dacOutstanding = false) : step s = exec i { s with port := none } := by
  have ho' : State.dacOutstanding { s with port := none } = false := ho
  simp only [step_of_port hr hp, present, hd, ho', Bool.false_eq_true, if_false]

/-- A marked run refuses every step (70_reset_and_hazards.md R197). -/
theorem step_of_refused {s : State} (hr : s.refused = true) : step s = .refused .runRefused := by
  simp only [step, blockStep, hr, if_true]

/-- A refused step marks the run. -/
theorem advance_refused {s : State} {r : Refusal} (h : step s = .refused r) : (advance s).refused = true := by
  simp only [advance, h, State.markRefused_refused]

/-- Settles O57: the command or the turn that the step is does not see the trace, and the step's choice between
them rests on the mark, the port and DACX. -/
theorem traceIsHistory : Obligations.TraceIsHistory := by
  intro s t tr h
  obtain ⟨hr, ⟨w, i, hp, hd, ho, hi⟩ | ⟨hp, he⟩⟩ := step_cases h
  · obtain ⟨-, es, hes, hf⟩ := history_noninterference (fun b tr => exec_ignores_history b tr i) hi
    have hstep := step_of_admitted (s := { s with trace := tr }) hr hp hd ho
    exact ⟨es, hes, hstep.trans (hf tr)⟩
  · obtain ⟨-, es, hes, hf⟩ := history_noninterference engineTurn_ignores_history he
    have hstep := step_of_no_port (s := { s with trace := tr }) hr hp
    exact ⟨es, hes, hstep.trans (hf tr)⟩

/-- A step that goes on leaves the mark as it is. -/
theorem step_keeps_refused {s t : State} (h : step s = .next t) : t.refused = s.refused := by
  obtain ⟨-, ⟨w, i, -, -, -, hi⟩ | ⟨-, he⟩⟩ := step_cases h
  · exact (history_noninterference (fun b tr => exec_ignores_history b tr i) hi).1
  · exact (history_noninterference engineTurn_ignores_history he).1

/-- Settles O9: the run is marked by `advance` alone, and no operation or turn sees the mark. -/
theorem refusalMarksTheRunForEver : Obligations.RefusalMarksTheRunForEver :=
  ⟨fun _ _ h => advance_refused h,
    fun _ hr => ⟨advance_refused (step_of_refused hr), step_of_refused hr⟩,
    fun _ _ h => step_keeps_refused h⟩

/-! ## What a step does to DACX -/

/-- What the sequencer, the byte engine and an accepted DAC.WRITE may do to DACX. -/
structure DacxTurn (d d' : Dacx) : Prop where
  /-- The sequencer stays or takes one arrow (10_state.md R31). -/
  arrow : d'.hsq = d.hsq ∨ d'.hsq = d.hsq.succ
  /-- The frame is captured at accept (10_state.md R21). -/
  frame : d.hsq ≠ .idle → d'.frame = d.frame
  /-- The serial control register is not written (10_state.md R37). -/
  sbc : d'.sbc = d.sbc

theorem DacxTurn.refl (d : Dacx) : DacxTurn d d := ⟨.inl rfl, fun _ => rfl, rfl⟩

/-- The one arrow that writes the frame starts at `Idle`. -/
theorem toSelected_dacxTurn (v : Sample) {s : State} (hq : s.dacx.hsq = .idle) :
    DacxTurn s.dacx (toSelected v s).dacx :=
  ⟨.inr (by rw [hq]; rfl), fun h => absurd hq h, rfl⟩

theorem sequencerTurn_dacxTurn {s t : State} (h : sequencerTurn s = .next t) : DacxTurn s.dacx t.dacx := by
  rcases sequencerTurn_cases h with ⟨hq, -, rfl⟩ | ⟨-, -, rfl⟩ | ⟨hq, hload⟩ | ⟨hq, -, rfl⟩ | ⟨hq, hload⟩ |
    ⟨hq, -, rfl⟩ | ⟨hq, rfl⟩ | ⟨-, -, rfl⟩
  · exact toSelected_dacxTurn 0 hq
  · exact .refl _
  · obtain ⟨-, rfl⟩ := toSendingMsb_eq_next.mp hload
    exact ⟨.inr (by rw [hq]; rfl), fun _ => rfl, rfl⟩
  · exact ⟨.inr (by rw [hq]; rfl), fun _ => rfl, rfl⟩
  · obtain ⟨-, rfl⟩ := toSendingLsb_eq_next.mp hload
    exact ⟨.inr (by rw [hq]; rfl), fun _ => rfl, rfl⟩
  · exact ⟨.inr (by rw [hq]; rfl), fun _ => rfl, rfl⟩
  · rw [toIdle_eq]
    exact ⟨.inr (by rw [hq]; rfl), fun _ => rfl, rfl⟩
  · exact .refl _

theorem hostTurn_dacx (s : State) : (hostTurn s).dacx = s.dacx := by
  rcases hostTurn_cases s with ⟨-, h⟩ | ⟨_, _, -, h⟩ <;> rw [h]

theorem engineTurn_dacxTurn {s t : State} (h : engineTurn s = .next t) : DacxTurn s.dacx t.dacx := by
  rcases engineTurn_cases s with ⟨-, -, hc⟩ | ⟨-, hturn⟩
  · rw [hc] at h
    injection h with h
    subst h
    exact ⟨.inl rfl, fun _ => rfl, rfl⟩
  · rw [← afterEngine_dacx s]
    rw [hturn] at h
    rcases otherTurn_cases (afterEngine s) with ⟨-, hseq⟩ | ⟨-, hhost⟩
    · exact sequencerTurn_dacxTurn (hseq.symm.trans h)
    · rw [hhost] at h
      injection h with h
      rw [← h, hostTurn_dacx]
      exact .refl _

/-- An operation that answers does to DACX what a turn may do, or it is DAC.INIT. -/
theorem exec_dacx_cases {i : Instr} {s t : State} (h : exec i s = .next t) :
    DacxTurn s.dacx t.dacx ∨ (i = .dacInit ∧ t.dacx.hsq = s.dacx.hsq ∧ t.dacx.frame = s.dacx.frame) := by
  by_cases hl : isLcd i = true
  · rw [(dacx_noninterference (exec_lcd_ignores_dacx hl) h s.dacx).1]
    exact .inl (.refl _)
  · cases i with
    | dacInit =>
      obtain ⟨-, rfl⟩ := execDacInit_eq_next.mp h
      exact .inr ⟨rfl, rfl, rfl⟩
    | dacWrite v =>
      obtain ⟨ho, -, rfl⟩ := execDacWrite_eq_next.mp h
      exact .inl (toSelected_dacxTurn v (dacOutstanding_eq_false.mp ho).1)
    | _ => exact absurd rfl hl

/-- A step does to DACX what a turn may do, or it runs DAC.INIT. -/
theorem step_dacx_cases {s t : State} (h : step s = .next t) :
    DacxTurn s.dacx t.dacx ∨
      ((∃ w, s.port = some w ∧ decode w = .ok .dacInit) ∧
        t.dacx.hsq = s.dacx.hsq ∧ t.dacx.frame = s.dacx.frame) := by
  obtain ⟨-, ⟨w, i, hp, hd, -, hi⟩ | ⟨-, he⟩⟩ := step_cases h
  · rcases exec_dacx_cases hi with hturn | ⟨rfl, hkept⟩
    · exact .inl hturn
    · exact .inr ⟨⟨w, hp, hd⟩, hkept⟩
  · exact .inl (engineTurn_dacxTurn he)

/-- Settles O26: a turn takes at most one arrow, and DAC.INIT's configuration step takes none. -/
theorem sequencerFollowsItsArrows : Obligations.SequencerFollowsItsArrows := by
  refine ⟨fun s t h => ?_, fun s hq => dacOutstanding_eq_true.mpr (.inl hq)⟩
  rcases step_dacx_cases h with hturn | ⟨-, hq, -⟩
  · exact hturn.arrow
  · exact .inl hq

/-- Settles O27: only the arrow from `Idle` writes the frame. -/
theorem frameIsCaptured : Obligations.FrameIsCaptured := by
  intro s t hq h
  rcases step_dacx_cases h with hturn | ⟨-, -, hframe⟩
  · exact hturn.frame hq
  · exact hframe

/-- Settles O28: no turn writes the serial control register. -/
theorem serialControlWrittenByInitAlone : Obligations.SerialControlWrittenByInitAlone := by
  intro s t h hne
  rcases step_dacx_cases h with hturn | ⟨hinit, -⟩
  · exact absurd hturn.sbc hne
  · exact hinit

/-! ## What a step does to LCDX -/

/-- An operation that answers leaves LCDX, or it is LCD.INIT, or it is LCD.WRITE, which writes cells alone and
keeps their canonical form. -/
theorem exec_lcdx_cases {i : Instr} {s t : State} (h : exec i s = .next t) :
    t.lcdx = s.lcdx ∨
    (i = .lcdInit ∧ t.lcdx = { cells := s.lcdx.cells.zeroAll, lcr := lcrInitial, lcdInited := true }) ∨
    ((∃ c pos, i = .lcdWrite c pos) ∧
      ∃ m : Memory, t.lcdx = { s.lcdx with cells := m } ∧ (s.lcdx.cells.wf = true → m.wf = true)) := by
  cases i with
  | dacInit => exact .inl (lcdx_noninterference (exec_dac_ignores_lcdx rfl) h s.lcdx).1
  | dacWrite v => exact .inl (lcdx_noninterference (exec_dac_ignores_lcdx rfl) h s.lcdx).1
  | lcdInit =>
    injection (execLcdInit_eq s).symm.trans h with ht
    exact .inr (.inl ⟨rfl, by rw [← ht]⟩)
  | lcdC2s c =>
    injection (execLcdC2s_eq c s).symm.trans h with ht
    exact .inl (by rw [← ht])
  | lcdP2r pos =>
    injection (execLcdP2r_eq pos s).symm.trans h with ht
    exact .inl (by rw [← ht])
  | lcdWrite c pos =>
    obtain ⟨-, m, codes, rfl, hwf, -⟩ := execLcdWrite_inv h
    exact .inr (.inr ⟨⟨c, pos, rfl⟩, m, rfl, hwf⟩)

/-- A step leaves LCDX, or it runs LCD.INIT, or it runs LCD.WRITE. -/
theorem step_lcdx_cases {s t : State} (h : step s = .next t) :
    t.lcdx = s.lcdx ∨ ∃ w, s.port = some w ∧
      ((decode w = .ok .lcdInit ∧
          t.lcdx = { cells := s.lcdx.cells.zeroAll, lcr := lcrInitial, lcdInited := true }) ∨
        ((∃ c pos, decode w = .ok (.lcdWrite c pos)) ∧
          ∃ m : Memory, t.lcdx = { s.lcdx with cells := m } ∧ (s.lcdx.cells.wf = true → m.wf = true))) := by
  obtain ⟨-, ⟨w, i, hp, hd, -, hi⟩ | ⟨-, he⟩⟩ := step_cases h
  · rcases exec_lcdx_cases hi with hl | ⟨rfl, hl⟩ | ⟨⟨c, pos, rfl⟩, hl⟩
    · exact .inl hl
    · exact .inr ⟨w, hp, .inl ⟨hd, hl⟩⟩
    · exact .inr ⟨w, hp, .inr ⟨⟨c, pos, hd⟩, hl⟩⟩
  · exact .inl (lcdx_noninterference engineTurn_ignores_lcdx he s.lcdx).1

/-- Settles O49: LCD.INIT sets the invariant up, LCD.WRITE keeps the cells' form and writes no control field, and
every other step leaves LCDX. -/
theorem stepKeepsLcdInv : Obligations.StepKeepsLcdInv := by
  intro s t hinv h
  rcases step_lcdx_cases h with hl | ⟨w, -, ⟨-, hl⟩ | ⟨-, m, hl, hwf⟩⟩ <;> rw [hl]
  · exact hinv
  · exact ⟨Memory.wf_zeroAll _ hinv.wf, fun _ => rfl⟩
  · exact ⟨hwf hinv.wf, hinv.lcr⟩

/-- Settles O56: where the step runs neither LCD.INIT nor LCD.WRITE, every cell reads as before. -/
theorem cellsWrittenByLcdInitAndWriteAlone : Obligations.CellsWrittenByLcdInitAndWriteAlone := by
  rintro s t h ⟨a, hne⟩
  rcases step_lcdx_cases h with hl | ⟨w, hp, ⟨hd, -⟩ | ⟨hd, -⟩⟩
  · exact absurd (by rw [hl]) hne
  · exact ⟨w, hp, .inl hd⟩
  · exact ⟨w, hp, .inr hd⟩

end Sys2Proof.Machine

/-!
PROOFS. The display-data space's rules at the level of a step: a step of one sub-block commutes with a step of the
other (20_memory.md R73), and no step forms a cell index that does not exist (20_memory.md R66).
-/

namespace Sys2Proof.Machine

/-! ## The events of each sub-block -/

/-- An LCD operation depends on LCDX alone: from every state with that LCDX it makes the same new LCDX and emits
the same events, all of LCDX. -/
theorem exec_lcd_congr {i : Instr} {s t : State} (hi : isLcd i = true) (h : exec i s = .next t) :
    ∃ es : List Event, (∀ e ∈ es, e.isLcd = true) ∧ ∀ s' : State, s'.lcdx = s.lcdx →
      exec i s' = .next { s' with lcdx := t.lcdx, trace := s'.trace ++ es } := by
  cases i with
  | dacInit => cases hi
  | dacWrite v => cases hi
  | lcdInit =>
    injection (execLcdInit_eq s).symm.trans h with ht
    subst ht
    exact ⟨[_], List.forall_mem_singleton.mpr rfl, fun s' hl => (execLcdInit_eq s').trans (by rw [hl])⟩
  | lcdC2s c =>
    injection (execLcdC2s_eq c s).symm.trans h with ht
    subst ht
    exact ⟨[_], List.forall_mem_singleton.mpr rfl, fun s' hl => (execLcdC2s_eq c s').trans (by rw [← hl])⟩
  | lcdP2r pos =>
    injection (execLcdP2r_eq pos s).symm.trans h with ht
    subst ht
    exact ⟨[_], List.forall_mem_singleton.mpr rfl, fun s' hl => (execLcdP2r_eq pos s').trans (by rw [← hl])⟩
  | lcdWrite c pos =>
    obtain ⟨-, m, codes, rfl, -⟩ := execLcdWrite_inv h
    refine ⟨codes.map Event.err ++ [.resp .lcdWrite .done], fun e he => ?_, fun s' hl => ?_⟩
    · rcases List.mem_append.mp he with he | he
      · obtain ⟨code, -, rfl⟩ := List.mem_map.mp he
        rfl
      · rw [List.mem_singleton.mp he]
        rfl
    · obtain ⟨es, hes, hw⟩ := execLcdWrite_congr s' h hl
      rw [List.append_assoc] at hes
      rw [List.append_cancel_left hes]
      exact hw

/-- An inspection's diagnostic is no event of LCDX. -/
theorem filter_isLcd_inspection (tr : List Event) (w : Bool) (i : InspectionPoint) :
    (tr ++ collisionEvent w i).filter Event.isLcd = tr.filter Event.isLcd := by
  cases w <;> simp [collisionEvent, Event.isLcd]

theorem sequencerTurn_keeps_lcd_events {s t : State} (h : sequencerTurn s = .next t) :
    t.trace.filter Event.isLcd = s.trace.filter Event.isLcd := by
  rcases sequencerTurn_cases h with ⟨-, -, rfl⟩ | ⟨-, -, rfl⟩ | ⟨-, hload⟩ | ⟨-, -, rfl⟩ | ⟨-, hload⟩ |
    ⟨-, -, rfl⟩ | ⟨-, rfl⟩ | ⟨-, -, rfl⟩
  · simp [Event.isLcd]
  · rfl
  · obtain ⟨-, rfl⟩ := toSendingMsb_eq_next.mp hload
    exact filter_isLcd_inspection ..
  · rfl
  · obtain ⟨-, rfl⟩ := toSendingLsb_eq_next.mp hload
    exact filter_isLcd_inspection ..
  · rfl
  · cases hr : s.dacx.initRunning <;> simp [toIdle_eq, hr, Event.isLcd, Op.isLcd]
  · rfl

theorem hostTurn_trace (s : State) : (hostTurn s).trace = s.trace := by
  rcases hostTurn_cases s with ⟨-, h⟩ | ⟨_, _, -, h⟩ <;> rw [h]

theorem engineTurn_keeps_lcd_events {s t : State} (h : engineTurn s = .next t) :
    t.trace.filter Event.isLcd = s.trace.filter Event.isLcd := by
  rcases engineTurn_cases s with ⟨-, -, hc⟩ | ⟨-, hturn⟩
  · injection hc.symm.trans h with ht
    subst ht
    simp [Event.isLcd]
  · rw [← afterEngine_trace s]
    rw [hturn] at h
    rcases otherTurn_cases (afterEngine s) with ⟨-, hseq⟩ | ⟨-, hhost⟩
    · exact sequencerTurn_keeps_lcd_events (hseq.symm.trans h)
    · injection hhost.symm.trans h with ht
      rw [← ht, hostTurn_trace]

/-- A turn of DACX does not depend on LCDX or the trace: whatever stands there, it leaves LCDX and emits the same
events, none of LCDX. -/
theorem engineTurn_congr {s t : State} (h : engineTurn s = .next t) :
    ∃ es : List Event, (∀ e ∈ es, e.isLcd = false) ∧ t.trace = s.trace ++ es ∧ ∀ l tr,
      engineTurn { s with lcdx := l, trace := tr } = .next { t with lcdx := l, trace := tr ++ es } := by
  obtain ⟨-, es, hes, hrun⟩ := history_noninterference engineTurn_ignores_history h
  have hnone : es.filter Event.isLcd = [] := by
    simpa only [hes, List.filter_append, List.append_right_eq_self] using engineTurn_keeps_lcd_events h
  exact ⟨es, fun e he => by simpa using List.filter_eq_nil_iff.mp hnone e he, hes,
    fun l tr => (engineTurn_ignores_lcdx l).next (hrun tr)⟩

/-- Settles O44: neither step sees what the other one changes, so both orders change LCDX and DACX in the same
way, and the events each appends pass the filter of its own sub-block alone. -/
theorem subBlockStepsCommute : Obligations.SubBlockStepsCommute := by
  intro i s a b hi ha hb
  obtain ⟨lcdEvents, hlcd, hexec⟩ := exec_lcd_congr hi hb
  obtain ⟨dacEvents, hdac, htrace, hturn⟩ := engineTurn_congr ha
  have hlcdx : a.lcdx = s.lcdx := (lcdx_noninterference engineTurn_ignores_lcdx ha s.lcdx).1
  have hbs : b = { s with lcdx := b.lcdx, trace := s.trace ++ lcdEvents } := by
    injection hb.symm.trans (hexec s rfl)
  have hd := (congrArg engineTurn hbs).trans (hturn b.lcdx (s.trace ++ lcdEvents))
  refine ⟨_, _, hexec a hlcdx, hd, rfl, rfl, ?_, ?_⟩
  · have hnone : dacEvents.filter Event.isLcd = [] := List.filter_eq_nil_iff.mpr (by simpa using hdac)
    simp [htrace, List.filter_append, hnone]
  · have hnone : lcdEvents.filter (fun e => !e.isLcd) = [] := List.filter_eq_nil_iff.mpr (by simpa using hlcd)
    simp [htrace, List.filter_append, hnone]

/-! ## No fault -/

/-- An operation answers or is refused: the one that reaches cells, LCD.WRITE, forms indices of existing ones. -/
theorem exec_ne_fault (i : Instr) (s : State) (f : Fault) : exec i s ≠ .fault f := by
  rcases exec_total i s with ⟨t, h⟩ | ⟨-, h⟩ | ⟨-, h⟩ | ⟨-, h⟩ <;> rw [h] <;> nofun

theorem present_ne_fault (w : CommandWord) (s : State) (f : Fault) : present w s ≠ .fault f := by
  unfold present
  split
  · nofun
  · split
    · nofun
    · exact exec_ne_fault _ s f

theorem engineTurn_ne_fault (s : State) (f : Fault) : engineTurn s ≠ .fault f := by
  rcases engineTurn_cases s with ⟨-, -, hc⟩ | ⟨-, hturn⟩
  · rw [hc]
    nofun
  · rw [hturn]
    rcases otherTurn_cases (afterEngine s) with ⟨-, hseq⟩ | ⟨-, hhost⟩
    · rw [hseq]
      rcases sequencerTurn_total (afterEngine s) with ⟨t, h⟩ | ⟨-, -, h⟩ <;> rw [h] <;> nofun
    · rw [hhost]
      nofun

/-- Settles O55: a step is a refusal, a word presented at the port, or a turn of DACX. -/
theorem noStepFaults : Obligations.NoStepFaults := by
  intro s f
  cases hr : s.refused with
  | true =>
    rw [step_of_refused hr]
    nofun
  | false =>
    cases hp : s.port with
    | some w =>
      rw [step_of_port hr hp]
      exact present_ne_fault w _ f
    | none =>
      rw [step_of_no_port hr hp]
      exact engineTurn_ne_fault s f

end Sys2Proof.Machine

/-!
PROOFS. Reserved words (30_encoding.md R87 to R89): the rows of the table as conditions on a word's fields, the
decoder's verdict on a word that none of them matches, and the refusal of one at the command port.
-/

namespace Sys2Proof

/-! ## The rows of the table as conditions on fields -/

section
variable (w : CommandWord)

/-- Format N, of opcode `k`: all twenty bits are fixed. -/
theorem matches_row_N_iff {row : CommandWord} {k : BitVec 4} (hrow : row.toNat = k.toNat * 65536) :
    w &&& 0xFFFFF = row ↔ opField w = k ∧ argField w = 0 := by
  simp only [← BitVec.toNat_inj, mask_N_toNat, hrow, opField_toNat, argField_toNat, BitVec.reduceToNat]
  omega

/-- Format V. -/
theorem matches_row_V_iff : w &&& 0xFF000 = 0x20000 ↔ opField w = 0x2 ∧ aboveSampleField w = 0 := by
  simp only [← BitVec.toNat_inj, mask_V_toNat, opField_toNat, aboveSampleField_toNat, BitVec.reduceToNat]
  omega

/-- Format C. -/
theorem matches_row_C_iff : w &&& 0xF00FF = 0x50000 ↔ opField w = 0x5 ∧ posField w = 0 := by
  simp only [← BitVec.toNat_inj, mask_C_toNat, opField_toNat, posField_toNat, BitVec.reduceToNat]
  omega

/-- Format P. -/
theorem matches_row_P_iff : w &&& 0xFFF00 = 0x60000 ↔ opField w = 0x6 ∧ charField w = 0 := by
  simp only [← BitVec.toNat_inj, mask_P_toNat, opField_toNat, charField_toNat, BitVec.reduceToNat]
  omega

/-- Format CP: the opcode alone is fixed. -/
theorem matches_row_CP_iff : w &&& 0xF0000 = 0x70000 ↔ opField w = 0x7 := by
  simp only [← BitVec.toNat_inj, mask_CP_toNat, opField_toNat, BitVec.reduceToNat]
  omega

/-- The table of 30_encoding.md R87, read by fields. -/
theorem matchesTable_iff : matchesTable w = true ↔
    (opField w = 0x1 ∧ argField w = 0) ∨ (opField w = 0x2 ∧ aboveSampleField w = 0) ∨
    (opField w = 0x4 ∧ argField w = 0) ∨ (opField w = 0x5 ∧ posField w = 0) ∨
    (opField w = 0x6 ∧ charField w = 0) ∨ opField w = 0x7 := by
  have hN₁ := matches_row_N_iff w (row := 0x10000) (k := 0x1) rfl
  have hN₄ := matches_row_N_iff w (row := 0x40000) (k := 0x4) rfl
  simp only [matchesTable, commandTable, List.any_cons, List.any_nil, Bool.or_false, Bool.or_eq_true, beq_iff_eq,
    hN₁, hN₄, matches_row_V_iff, matches_row_C_iff, matches_row_P_iff, matches_row_CP_iff]

end

/-! ## Why a word is reserved -/

/-- The clause of 30_encoding.md R88 that a reason names. -/
def Reserved.Clause (w : CommandWord) : Reserved → Prop
  | .opcode => opField w = 0x0 ∨ opField w = 0x3 ∨ 0x8 ≤ (opField w).toNat
  | .argumentNotZero => (opField w = 0x1 ∨ opField w = 0x4) ∧ argField w ≠ 0
  | .aboveSampleNotZero => opField w = 0x2 ∧ aboveSampleField w ≠ 0
  | .belowCharacterNotZero => opField w = 0x5 ∧ posField w ≠ 0
  | .abovePositionNotZero => opField w = 0x6 ∧ charField w ≠ 0

/-- The opcodes of no row (30_encoding.md R88) are those that the decoder compares with none of its six. -/
theorem opcode_offTable_iff (op : BitVec 4) : (op = 0x0 ∨ op = 0x3 ∨ 0x8 ≤ op.toNat) ↔
    op ≠ 0x1 ∧ op ≠ 0x2 ∧ op ≠ 0x4 ∧ op ≠ 0x5 ∧ op ≠ 0x6 ∧ op ≠ 0x7 := by
  decide +revert

section
variable {w : CommandWord}

/-- Some clause holds: the list of 30_encoding.md R88. -/
theorem exists_clause_iff : (∃ why : Reserved, why.Clause w) ↔
    (opField w = 0x0 ∨ opField w = 0x3 ∨ 0x8 ≤ (opField w).toNat) ∨
    ((opField w = 0x1 ∨ opField w = 0x4) ∧ argField w ≠ 0) ∨ (opField w = 0x2 ∧ aboveSampleField w ≠ 0) ∨
    (opField w = 0x5 ∧ posField w ≠ 0) ∨ (opField w = 0x6 ∧ charField w ≠ 0) := by
  constructor
  · rintro ⟨_ | _ | _ | _ | _, h⟩
    exacts [.inl h, .inr (.inl h), .inr (.inr (.inl h)), .inr (.inr (.inr (.inl h))), .inr (.inr (.inr (.inr h)))]
  · rintro (h | h | h | h | h)
    exacts [⟨.opcode, h⟩, ⟨.argumentNotZero, h⟩, ⟨.aboveSampleNotZero, h⟩, ⟨.belowCharacterNotZero, h⟩,
      ⟨.abovePositionNotZero, h⟩]

/-- The decoder names a clause that holds. -/
theorem clause_of_decode_error {why : Reserved} (h : decode w = .error why) : why.Clause w := by
  unfold decode at h
  split_ifs at h with h₁ ha₁ h₂ ha₂ h₄ ha₄ h₅ ha₅ h₆ ha₆ h₇
  all_goals cases h
  · exact ⟨.inl h₁, ha₁⟩
  · exact ⟨h₂, ha₂⟩
  · exact ⟨.inr h₄, ha₄⟩
  · exact ⟨h₅, ha₅⟩
  · exact ⟨h₆, ha₆⟩
  · exact (opcode_offTable_iff _).mpr ⟨h₁, h₂, h₄, h₅, h₆, h₇⟩

/-- A clause contradicts every row: it has another opcode, or the row's own with a field that must be zero. -/
theorem matchesTable_eq_false_of_clause {why : Reserved} (h : why.Clause w) : matchesTable w = false := by
  rw [← Bool.not_eq_true, matchesTable_iff]
  cases why with
  | opcode =>
    obtain ⟨h₁, h₂, h₄, h₅, h₆, h₇⟩ := (opcode_offTable_iff _).mp h
    simp only [h₁, h₂, h₄, h₅, h₆, h₇, false_and, or_false, not_false_eq_true]
  | argumentNotZero =>
    obtain ⟨h₁ | h₄, ha⟩ := h
    · simpa [h₁] using ha
    · simpa [h₄] using ha
  | aboveSampleNotZero =>
    obtain ⟨h₂, ha⟩ := h
    simpa [h₂] using ha
  | belowCharacterNotZero =>
    obtain ⟨h₅, ha⟩ := h
    simpa [h₅] using ha
  | abovePositionNotZero =>
    obtain ⟨h₆, ha⟩ := h
    simpa [h₆] using ha

/-- A word that decodes matches the row of its command. -/
theorem matchesTable_of_decode_ok {i : Instr} (h : decode w = .ok i) : matchesTable w = true := by
  rw [matchesTable_iff]
  unfold decode at h
  split_ifs at h with h₁ ha₁ h₂ ha₂ h₄ ha₄ h₅ ha₅ h₆ ha₆ h₇
  · exact .inl ⟨h₁, ha₁⟩
  · exact .inr (.inl ⟨h₂, ha₂⟩)
  · exact .inr (.inr (.inl ⟨h₄, ha₄⟩))
  · exact .inr (.inr (.inr (.inl ⟨h₅, ha₅⟩)))
  · exact .inr (.inr (.inr (.inr (.inl ⟨h₆, ha₆⟩))))
  · exact .inr (.inr (.inr (.inr (.inr h₇))))

/-- A word off the table does not decode. -/
theorem decode_error_of_matchesTable_eq_false (h : matchesTable w = false) : ∃ why, decode w = .error why := by
  cases hd : decode w with
  | error why => exact ⟨why, rfl⟩
  | ok i => simp [matchesTable_of_decode_ok hd] at h

end

/-- Settles O4: a word that does not decode meets the clause the decoder names, a word that meets a clause is off
the table, and a word off the table does not decode. -/
theorem reservedWordsAreTheListedOnes : Obligations.ReservedWordsAreTheListedOnes := by
  intro w
  rw [← exists_clause_iff]
  refine ⟨⟨?_, decode_error_of_matchesTable_eq_false⟩, ⟨?_, ?_⟩⟩
  · rintro ⟨why, hd⟩
    exact matchesTable_eq_false_of_clause (clause_of_decode_error hd)
  · intro hm
    obtain ⟨why, hd⟩ := decode_error_of_matchesTable_eq_false hm
    exact ⟨why, clause_of_decode_error hd⟩
  · rintro ⟨why, hc⟩
    exact matchesTable_eq_false_of_clause hc

end Sys2Proof

namespace Sys2Proof.Machine

/-- A reserved word at the port is refused with its reason, whatever is outstanding (30_encoding.md R89). -/
theorem step_of_reserved {s : State} {w : CommandWord} {why : Reserved} (hr : s.refused = false)
    (hp : s.port = some w) (hd : decode w = .error why) : step s = .refused (.reservedWord why) := by
  simp only [step_of_port hr hp, present, hd]

/-- Settles O7: the port's verdict on the word is a refusal, and a refusal marks the run. -/
theorem reservedWordRefused : Obligations.ReservedWordRefused := by
  intro s w why hr hp hd
  have hstep := step_of_reserved hr hp hd
  exact ⟨hstep, advance_refused hstep⟩

end Sys2Proof.Machine

/-!
PROOFS. The frame of a sample (40_dac.md R112).
-/

namespace Sys2Proof.Machine

theorem frameOf_toNat (v : Sample) : (frameOf v).toNat = 4 * v.toNat := by
  have hv := v.isLt
  rw [frameOf, BitVec.toNat_shiftLeft, BitVec.toNat_setWidth, Nat.shiftLeft_eq]
  omega

theorem highByte_toNat (f : Frame) : (highByte f).toNat = f.toNat / 256 := by
  have hf := f.isLt
  rw [highByte, BitVec.extractLsb'_toNat, Nat.shiftRight_eq_div_pow]
  omega

theorem lowByte_toNat (f : Frame) : (lowByte f).toNat = f.toNat % 256 := by
  rw [lowByte, BitVec.extractLsb'_toNat, Nat.shiftRight_eq_div_pow]
  omega

/-- The frame is padded with two zero bits on either side. -/
theorem frameOf_padding (v : Sample) :
    (frameOf v).extractLsb' 14 2 = 0 ∧ (frameOf v).extractLsb' 0 2 = 0 := by
  have hv := v.isLt
  simp only [← BitVec.toNat_inj, BitVec.extractLsb'_toNat, frameOf_toNat, Nat.shiftRight_eq_div_pow,
    BitVec.reduceToNat]
  omega

/-- Settles O21: every field is a quotient and a remainder of `4 * v`. -/
theorem frameArithmetic : Obligations.FrameArithmetic := by
  intro v
  have hv := v.isLt
  refine ⟨frameOf_toNat v, ?_⟩
  simp only [← BitVec.toNat_inj, BitVec.extractLsb'_toNat, highByte_toNat, lowByte_toNat, frameOf_toNat,
    Nat.shiftRight_eq_div_pow, BitVec.reduceToNat]
  omega

end Sys2Proof.Machine

/-!
PROOFS. The two DAC commands at the command port: their admission (40_dac.md R118), the configuration step of
DAC.INIT (R101) and the accept step of DAC.WRITE (R104).
-/

namespace Sys2Proof.Machine

theorem execDacInit_busy {s : State} (ho : s.dacOutstanding = true) : execDacInit s = .refused .dacBusy :=
  if_pos ho

theorem execDacWrite_busy {s : State} {v : Sample} (ho : s.dacOutstanding = true) :
    execDacWrite v s = .refused .dacBusy :=
  if_pos ho

/-- The state after DAC.INIT's configuration step (40_dac.md R101). -/
def State.configured (s : State) : State :=
  { s with
    dacx := { s.dacx with
      sbc := { mstrEn := 1, busEn := 1, clkSel := Config.dacClkSelInit, dblSpd := Config.dacDblSpdInit }
      csN := 1, initRunning := true, dacInited := true }
    trace := s.trace ++ [.cs 1] }

theorem execDacInit_admitted {s : State} (ho : s.dacOutstanding = false) : execDacInit s = .next s.configured :=
  execDacInit_eq_next.mpr ⟨ho, rfl⟩

theorem execDacWrite_admitted {s : State} {v : Sample} (ho : s.dacOutstanding = false)
    (hd : s.dacx.dacInited = true) : execDacWrite v s = .next (toSelected v s) :=
  execDacWrite_eq_next.mpr ⟨ho, hd, rfl⟩

theorem execDacWrite_notInitialised {s : State} {v : Sample} (ho : s.dacOutstanding = false)
    (hd : s.dacx.dacInited = false) : execDacWrite v s = .refused .dacNotInitialised := by
  simp only [execDacWrite, ho, hd, Bool.false_eq_true, if_false]

/-- Settles O11: off `Idle` an operation is outstanding, at `Idle` with no DAC.INIT under way none is. -/
theorem dacInitConfigures : Obligations.DacInitConfigures :=
  ⟨rfl, fun _ hq => execDacInit_busy (dacOutstanding_eq_true.mpr (.inl hq)),
    fun _ hq hi => execDacInit_admitted (dacOutstanding_eq_false.mpr ⟨hq, hi⟩)⟩

/-- Settles O13: whether an operation is outstanding decides between the two halves. -/
theorem dacAdmission : Obligations.DacAdmission := by
  intro s v
  refine ⟨fun hbusy => ?_, fun hq hi => ?_⟩
  · have ho := dacOutstanding_eq_true.mpr hbusy
    exact ⟨execDacInit_busy ho, execDacWrite_busy ho⟩
  · have ho := dacOutstanding_eq_false.mpr ⟨hq, hi⟩
    exact ⟨⟨_, execDacInit_admitted ho⟩, fun hd => ⟨_, execDacWrite_admitted ho hd⟩, execDacWrite_notInitialised ho⟩

/-- Settles O29: each of the two steps leaves one next state, in which no field named here was written. -/
theorem dacOperationsFrame : Obligations.DacOperationsFrame := by
  constructor
  · intro s t h
    obtain ⟨-, rfl⟩ := execDacInit_eq_next.mp h
    exact ⟨fun _ => rfl, rfl, rfl, rfl, rfl, rfl, rfl, rfl, rfl, rfl, rfl, rfl, rfl⟩
  · intro s t v h
    obtain ⟨-, -, rfl⟩ := execDacWrite_eq_next.mp h
    exact ⟨fun _ => rfl, rfl, rfl, rfl, rfl, rfl, rfl, rfl, rfl, rfl, rfl, rfl, rfl, rfl⟩

end Sys2Proof.Machine

/-!
PROOFS. The steps of the handshake sequencer and of the byte engine (40_dac.md sections 4 and 5). A transaction sends
two bytes in the same way, each from its inspection point on (10_state.md R35), so the rules of the two halves are said
once, of the inspection point.
-/

namespace Sys2Proof.Machine

/-! ## The two halves of a transaction -/

/-- The state in which the sequencer inspects and loads. -/
@[simp] def InspectionPoint.loading : InspectionPoint → Hsq
  | .first => .selected
  | .second => .msbDone

/-- The completion wait after the load. -/
@[simp] def InspectionPoint.sending : InspectionPoint → Hsq
  | .first => .sendingMsb
  | .second => .sendingLsb

/-- The state after the wait. -/
@[simp] def InspectionPoint.sent : InspectionPoint → Hsq
  | .first => .msbDone
  | .second => .lsbDone

/-- The byte of the frame that is loaded. -/
@[simp] def InspectionPoint.byte : InspectionPoint → Frame → Byte
  | .first => highByte
  | .second => lowByte

/-- The state after the inspection and the load of one half (40_dac.md R105, R107, R110). -/
def State.loaded (i : InspectionPoint) (s : State) : State :=
  { s with
    dacx := { s.dacx with
      hsq := i.sending, data := i.byte s.dacx.frame, shreg := i.byte s.dacx.frame
      shifting := true, xferDone := false }
    env := s.env.drawWcol.2
    trace := s.trace ++ collisionEvent s.env.drawWcol.1 i }

theorem exists_loading {h : Hsq} : h = .selected ∨ h = .msbDone ↔ ∃ i : InspectionPoint, h = i.loading := by
  constructor
  · rintro (rfl | rfl)
    exacts [⟨.first, rfl⟩, ⟨.second, rfl⟩]
  · rintro ⟨_ | _, rfl⟩
    exacts [.inl rfl, .inr rfl]

theorem exists_sending {h : Hsq} : h = .sendingMsb ∨ h = .sendingLsb ↔ ∃ i : InspectionPoint, h = i.sending := by
  constructor
  · rintro (rfl | rfl)
    exacts [⟨.first, rfl⟩, ⟨.second, rfl⟩]
  · rintro ⟨_ | _, rfl⟩
    exacts [.inl rfl, .inr rfl]

theorem InspectionPoint.loading_ne_idle (i : InspectionPoint) : i.loading ≠ .idle := by cases i <;> nofun

theorem InspectionPoint.sending_ne_idle (i : InspectionPoint) : i.sending ≠ .idle := by cases i <;> nofun

/-! ## The sequencer's turn in each of its states -/

section
variable {s : State}

theorem sequencerTurn_initRunning (hq : s.dacx.hsq = .idle) (hi : s.dacx.initRunning = true) :
    sequencerTurn s = .next (toSelected 0 s) := by
  simp only [sequencerTurn, hq, hi, if_true]

theorem sequencerTurn_selected (hq : s.dacx.hsq = .selected) : sequencerTurn s = toSendingMsb s := by
  simp only [sequencerTurn, hq]

theorem sequencerTurn_msbDone (hq : s.dacx.hsq = .msbDone) : sequencerTurn s = toSendingLsb s := by
  simp only [sequencerTurn, hq]

theorem sequencerTurn_lsbDone (hq : s.dacx.hsq = .lsbDone) : sequencerTurn s = .next (toIdle s) := by
  simp only [sequencerTurn, hq]

theorem sequencerTurn_flagUp (i : InspectionPoint) (hq : s.dacx.hsq = i.sending) (hx : s.dacx.xferDone = true) :
    sequencerTurn s = .next (s.moveTo i.sent) := by
  cases i with
  | first => simp only [sequencerTurn, show s.dacx.hsq = .sendingMsb from hq, hx, if_true]; rfl
  | second => simp only [sequencerTurn, show s.dacx.hsq = .sendingLsb from hq, hx, if_true]; rfl

theorem sequencerTurn_flagDown (i : InspectionPoint) (hq : s.dacx.hsq = i.sending)
    (hx : s.dacx.xferDone = false) : sequencerTurn s = .next s := by
  cases i with
  | first => simp only [sequencerTurn, show s.dacx.hsq = .sendingMsb from hq, hx, Bool.false_eq_true, if_false]
  | second => simp only [sequencerTurn, show s.dacx.hsq = .sendingLsb from hq, hx, Bool.false_eq_true, if_false]

end

/-! ## Whose turn a step is -/

theorem afterEngine_shifting_false {s : State} (hs : s.dacx.shifting = false) : afterEngine s = s := by
  simp only [afterEngine, hs, Bool.false_eq_true, if_false]

theorem afterEngine_shifting_true {s : State} (hs : s.dacx.shifting = true) :
    afterEngine s = { s with env := s.env.drawDone.2 } := by
  simp only [afterEngine, hs, if_true]

section
variable {s : State} (hr : s.refused = false) (hp : s.port = none)
include hr hp

/-- While an operation is outstanding and no completion comes, the step is the sequencer's turn. -/
theorem step_eq_sequencerTurn (ho : s.dacOutstanding = true)
    (hd : s.dacx.shifting = true → s.env.drawDone.1 = false) : step s = sequencerTurn (afterEngine s) := by
  rw [step_of_no_port hr hp]
  rcases engineTurn_cases s with ⟨hs, hd', -⟩ | ⟨-, hturn⟩
  · rw [hd hs] at hd'
    cases hd'
  · rw [hturn, otherTurn, afterEngine_dacOutstanding, ho, if_pos rfl]

/-- With no transfer in flight the byte engine has no turn. -/
theorem step_eq_sequencerTurn_of_not_shifting (ho : s.dacOutstanding = true) (hs : s.dacx.shifting = false) :
    step s = sequencerTurn s := by
  rw [step_eq_sequencerTurn hr hp ho (by simp [hs]), afterEngine_shifting_false hs]

/-- The inspection and the load, in either half (40_dac.md R105, R107). -/
theorem step_loading (i : InspectionPoint) (hq : s.dacx.hsq = i.loading) (hs : s.dacx.shifting = false) :
    step s = .next (s.loaded i) := by
  have ho : s.dacOutstanding = true := dacOutstanding_eq_true.mpr (.inl (hq ▸ i.loading_ne_idle))
  rw [step_eq_sequencerTurn_of_not_shifting hr hp ho hs]
  cases i with
  | first => exact (sequencerTurn_selected hq).trans (toSendingMsb_eq_next.mpr ⟨hs, rfl⟩)
  | second => exact (sequencerTurn_msbDone hq).trans (toSendingLsb_eq_next.mpr ⟨hs, rfl⟩)

/-- The arrow out of either wait, once the flag is up (40_dac.md R106, R108). -/
theorem step_sent (i : InspectionPoint) (hq : s.dacx.hsq = i.sending) (hx : s.dacx.xferDone = true)
    (hs : s.dacx.shifting = false) : step s = .next { s with dacx := { s.dacx with hsq := i.sent } } := by
  have ho : s.dacOutstanding = true := dacOutstanding_eq_true.mpr (.inl (hq ▸ i.sending_ne_idle))
  rw [step_eq_sequencerTurn_of_not_shifting hr hp ho hs]
  exact sequencerTurn_flagUp i hq hx

/-- In either wait, a step in which no completion comes changes only the draws (40_dac.md R116). -/
theorem step_waiting (i : InspectionPoint) (hq : s.dacx.hsq = i.sending) (hx : s.dacx.xferDone = false)
    (hs : s.dacx.shifting = true) (hd : s.env.drawDone.1 = false) :
    step s = .next { s with env := s.env.drawDone.2 } := by
  have ho : s.dacOutstanding = true := dacOutstanding_eq_true.mpr (.inl (hq ▸ i.sending_ne_idle))
  rw [step_eq_sequencerTurn hr hp ho fun _ => hd, afterEngine_shifting_true hs]
  exact sequencerTurn_flagDown i hq hx

/-- The byte engine's completion, whatever state the sequencer is in (40_dac.md R111). -/
theorem step_completing (hs : s.dacx.shifting = true) (hd : s.env.drawDone.1 = true) :
    step s = .next { s with
      dacx := { s.dacx with shifting := false, xferDone := true, data := s.env.drawDone.2.drawRx.1 }
      env := s.env.drawDone.2.drawRx.2
      trace := s.trace ++ [.tx s.dacx.shreg] } := by
  rw [step_of_no_port hr hp]
  rcases engineTurn_cases s with ⟨-, -, hturn⟩ | ⟨hd', -⟩
  · exact hturn
  · rw [hd' hs] at hd
    cases hd

/-- The arrow `LSBDone → Idle` (40_dac.md R109). -/
theorem step_lsbDone (hq : s.dacx.hsq = .lsbDone) (hs : s.dacx.shifting = false) :
    step s = .next { s with
      dacx := { s.dacx with csN := 1, hsq := .idle, initRunning := false }
      trace := s.trace ++ [.cs 1, .resp (if s.dacx.initRunning then .dacInit else .dacWrite) .done] } := by
  have ho : s.dacOutstanding = true := dacOutstanding_eq_true.mpr (.inl (by rw [hq]; nofun))
  rw [step_eq_sequencerTurn_of_not_shifting hr hp ho hs, ← toIdle_eq]
  exact sequencerTurn_lsbDone hq

/-- The arrow `Idle → Selected` of DAC.INIT's inner transaction (40_dac.md R102, R104). -/
theorem step_innerTransaction (hq : s.dacx.hsq = .idle) (hi : s.dacx.initRunning = true)
    (hs : s.dacx.shifting = false) : step s = .next (toSelected 0 s) := by
  rw [step_eq_sequencerTurn_of_not_shifting hr hp (dacOutstanding_eq_true.mpr (.inr hi)) hs]
  exact sequencerTurn_initRunning hq hi

/-- A loading transition with a transfer in flight and no completion is refused (40_dac.md R114). -/
theorem step_loading_inFlight (i : InspectionPoint) (hq : s.dacx.hsq = i.loading) (hs : s.dacx.shifting = true)
    (hd : s.env.drawDone.1 = false) : step s = .refused .loadInFlight := by
  have ho : s.dacOutstanding = true := dacOutstanding_eq_true.mpr (.inl (hq ▸ i.loading_ne_idle))
  rw [step_eq_sequencerTurn hr hp ho fun _ => hd]
  rw [← afterEngine_dacx s] at hq hs
  cases i with
  | first => exact (sequencerTurn_selected hq).trans (toSendingMsb_shifting hs)
  | second => exact (sequencerTurn_msbDone hq).trans (toSendingLsb_shifting hs)

end

/-! ## In which states a transfer is in flight -/

section
variable {d : Dacx} (h : DacInv d)
include h

/-- Outside the two waits no transfer is in flight (40_dac.md R113). -/
theorem DacInv.not_shifting (hq : ¬(d.hsq = .sendingMsb ∨ d.hsq = .sendingLsb)) : d.shifting = false :=
  Bool.eq_false_iff.mpr fun hs => hq (h.shifting hs).1

theorem DacInv.not_shifting_of_flag (hx : d.xferDone = true) : d.shifting = false :=
  Bool.eq_false_iff.mpr fun hs => by simp [(h.shifting hs).2] at hx

theorem DacInv.not_shifting_loading {i : InspectionPoint} (hq : d.hsq = i.loading) : d.shifting = false :=
  h.not_shifting (by rw [hq]; cases i <;> simp)

theorem DacInv.not_shifting_idle (hq : d.hsq = .idle) : d.shifting = false := h.not_shifting (by simp [hq])

end

/-! ## The obligations of the steps -/

/-- Settles O12: the accepted DAC.WRITE and the turn of DAC.INIT's inner transaction are the same arrow. -/
theorem idleToSelected : Obligations.IdleToSelected :=
  ⟨fun _ _ hq hi hd => execDacWrite_admitted (dacOutstanding_eq_false.mpr ⟨hq, hi⟩) hd,
    fun _ hinv hr hp hq hi => step_innerTransaction hr hp hq hi (hinv.not_shifting_idle hq)⟩

/-- Settles O14: the load of the first half. -/
theorem selectedToSendingMsb : Obligations.SelectedToSendingMsb :=
  fun _ hinv hr hp hq => step_loading hr hp .first hq (hinv.not_shifting_loading (i := .first) hq)

/-- Settles O15: with the flag up no transfer is in flight, so the sequencer moves; with it down one is. -/
theorem completionWaits : Obligations.CompletionWaits := by
  intro s hinv hr hp
  refine ⟨fun hq hx => ?_, fun hq hx => ?_, fun hq hx hd => ?_⟩
  · exact step_sent hr hp .first hq hx (hinv.not_shifting_of_flag hx)
  · exact step_sent hr hp .second hq hx (hinv.not_shifting_of_flag hx)
  · obtain ⟨i, hi⟩ := exists_sending.mp hq
    exact step_waiting hr hp i hi hx (hinv.waiting hq hx) hd

/-- Settles O16: the load of the second half. -/
theorem msbDoneToSendingLsb : Obligations.MsbDoneToSendingLsb :=
  fun _ hinv hr hp hq => step_loading hr hp .second hq (hinv.not_shifting_loading (i := .second) hq)

/-- Settles O17: the flag stands since the second wait, so no transfer is in flight. -/
theorem lsbDoneToIdle : Obligations.LsbDoneToIdle := by
  intro s hinv hr hp hq
  have hx := hinv.waited (.inr hq)
  exact ⟨hx, step_lsbDone hr hp hq (hinv.not_shifting_of_flag hx)⟩

/-- Settles O18: the load's equation. -/
theorem loadStartsTransfer : Obligations.LoadStartsTransfer :=
  fun _ _ hs => loadData_eq_next.mpr ⟨hs, rfl⟩

/-- Settles O19: the byte engine has the first turn, before the sequencer is looked at. -/
theorem transferCompletes : Obligations.TransferCompletes :=
  fun _ hr hp hs hd => step_completing hr hp hs hd

/-- Settles O20: the load refuses, and the two loading transitions stop where it does. -/
theorem loadInFlightRefused : Obligations.LoadInFlightRefused := by
  intro s hs
  refine ⟨fun b => if_pos hs, fun hr hp hd hq => ?_⟩
  obtain ⟨i, hi⟩ := exists_loading.mp hq
  exact step_loading_inFlight hr hp i hi hs hd

/-- Settles O25: the draws enter the loading step's next state only in the trace and in the draws left. -/
theorem collisionOnlyLogs : Obligations.CollisionOnlyLogs := by
  intro s e hinv hr hp hq
  obtain ⟨i, hi⟩ := exists_loading.mp hq
  have hs := hinv.not_shifting_loading hi
  have hpoint : (if s.dacx.hsq = .selected then InspectionPoint.first else .second) = i := by
    rw [hi]
    cases i <;> rfl
  rw [hpoint]
  exact ⟨_, _, step_loading hr hp i hi hs, step_loading (s := { s with env := e }) hr hp i hi hs, rfl, rfl, rfl, rfl⟩

end Sys2Proof.Machine

/-!
PROOFS. DACX's invariant is kept by every step (40_dac.md R112, R113, R116; 70_reset_and_hazards.md R194), and a state
that has it, of a host that keeps to one command, is refused for no reason of the sequencer's.
-/

namespace Sys2Proof.Machine

/-! ## Each update of DACX keeps the invariant -/

/-- DAC.INIT's configuration step sets up what the invariant says of an initialised DACX. -/
theorem dacInv_configured {s : State} (h : DacInv s.dacx) (hq : s.dacx.hsq = .idle) :
    DacInv s.configured.dacx where
  inited _ := rfl
  shifting := h.shifting
  waiting := h.waiting
  waited := h.waited
  csLow hne := absurd hq hne
  csHigh _ _ := rfl
  master _ := rfl
  padding hne := absurd hq hne
  upper := h.upper
  lower := h.lower

/-- The arrow `Idle → Selected` starts a transaction whose frame is a sample's. -/
theorem dacInv_toSelected {s : State} (h : DacInv s.dacx) (v : Sample) (hq : s.dacx.hsq = .idle)
    (hd : s.dacx.dacInited = true) : DacInv (toSelected v s).dacx where
  inited _ := hd
  shifting hs := absurd hs (by simp [h.not_shifting_idle hq])
  waiting := by simp
  waited := by simp
  csLow _ := rfl
  csHigh := by simp
  master := h.master
  padding _ := frameOf_padding v
  upper := by simp
  lower := by simp

/-- The load of either half puts the frame's byte in flight, the flag down. -/
theorem dacInv_loaded {s : State} (h : DacInv s.dacx) (i : InspectionPoint) (hq : s.dacx.hsq = i.loading) :
    DacInv (s.loaded i).dacx where
  inited _ := h.inited (.inl (hq ▸ i.loading_ne_idle))
  shifting _ := ⟨exists_sending.mpr ⟨i, rfl⟩, rfl⟩
  waiting _ _ := rfl
  waited := by cases i <;> simp [State.loaded]
  csLow _ := h.csLow (hq ▸ i.loading_ne_idle)
  csHigh hidle := absurd hidle i.sending_ne_idle
  master := h.master
  padding _ := h.padding (hq ▸ i.loading_ne_idle)
  upper := by cases i <;> simp [State.loaded]
  lower := by cases i <;> simp [State.loaded]

/-- The completion ends the transfer with the flag up, and leaves the sequencer in its wait. -/
theorem dacInv_completed {d : Dacx} (h : DacInv d) (b : Byte) :
    DacInv { d with shifting := false, data := b, xferDone := true } where
  inited := h.inited
  shifting := nofun
  waiting _ := nofun
  waited _ := rfl
  csLow := h.csLow
  csHigh := h.csHigh
  master := h.master
  padding := h.padding
  upper := h.upper
  lower := h.lower

/-- The arrow out of either wait keeps the byte sent and the flag. -/
theorem dacInv_sent {d : Dacx} (h : DacInv d) (i : InspectionPoint) (hq : d.hsq = i.sending)
    (hx : d.xferDone = true) : DacInv { d with hsq := i.sent } where
  inited _ := h.inited (.inl (hq ▸ i.sending_ne_idle))
  shifting hs := absurd hs (by simp [h.not_shifting_of_flag hx])
  waiting := by cases i <;> simp
  waited _ := hx
  csLow _ := h.csLow (hq ▸ i.sending_ne_idle)
  csHigh hidle := by cases i <;> cases hidle
  master := h.master
  padding _ := h.padding (hq ▸ i.sending_ne_idle)
  upper := by
    cases i with
    | first => exact fun _ => h.upper (.inl hq)
    | second => simp
  lower := by
    cases i with
    | first => simp
    | second => exact fun _ => h.lower (.inl hq)

/-- The arrow `LSBDone → Idle` raises chip-select again. -/
theorem dacInv_returned {d : Dacx} (h : DacInv d) (hq : d.hsq = .lsbDone) :
    DacInv { d with hsq := .idle, csN := 1, initRunning := false } where
  inited := by simp
  shifting hs := absurd hs (by simp [h.not_shifting_of_flag (h.waited (.inr hq))])
  waiting := by simp
  waited := by simp
  csLow hne := absurd rfl hne
  csHigh _ _ := rfl
  master := h.master
  padding hne := absurd rfl hne
  upper := by simp
  lower := by simp

/-! ## Each agent keeps the invariant -/

theorem sequencerTurn_keeps_dacInv {s t : State} (h : DacInv s.dacx) (ht : sequencerTurn s = .next t) :
    DacInv t.dacx := by
  rcases sequencerTurn_cases ht with ⟨hq, hi, rfl⟩ | ⟨-, -, rfl⟩ | ⟨hq, hload⟩ | ⟨hq, hx, rfl⟩ | ⟨hq, hload⟩ |
    ⟨hq, hx, rfl⟩ | ⟨hq, rfl⟩ | ⟨-, -, rfl⟩
  · exact dacInv_toSelected h 0 hq (h.inited (.inr hi))
  · exact h
  · obtain ⟨-, rfl⟩ := toSendingMsb_eq_next.mp hload
    exact dacInv_loaded h .first hq
  · exact dacInv_sent h .first hq hx
  · obtain ⟨-, rfl⟩ := toSendingLsb_eq_next.mp hload
    exact dacInv_loaded h .second hq
  · exact dacInv_sent h .second hq hx
  · rw [toIdle_eq]
    exact dacInv_returned h hq
  · exact h

theorem engineTurn_keeps_dacInv {s t : State} (h : DacInv s.dacx) (ht : engineTurn s = .next t) :
    DacInv t.dacx := by
  rcases engineTurn_cases s with ⟨-, -, hc⟩ | ⟨-, hturn⟩
  · injection hc.symm.trans ht with ht
    subst ht
    exact dacInv_completed h _
  · rw [hturn] at ht
    rw [← afterEngine_dacx s] at h
    rcases otherTurn_cases (afterEngine s) with ⟨-, hseq⟩ | ⟨-, hhost⟩
    · exact sequencerTurn_keeps_dacInv h (hseq.symm.trans ht)
    · injection hhost.symm.trans ht with ht
      rw [← ht, hostTurn_dacx]
      exact h

theorem exec_keeps_dacInv {i : Instr} {s t : State} (h : DacInv s.dacx) (ht : exec i s = .next t) :
    DacInv t.dacx := by
  by_cases hl : isLcd i = true
  · rw [(dacx_noninterference (exec_lcd_ignores_dacx hl) ht s.dacx).1]
    exact h
  · cases i with
    | dacInit =>
      obtain ⟨ho, rfl⟩ := execDacInit_eq_next.mp ht
      exact dacInv_configured h (dacOutstanding_eq_false.mp ho).1
    | dacWrite v =>
      obtain ⟨ho, hd, rfl⟩ := execDacWrite_eq_next.mp ht
      exact dacInv_toSelected h v (dacOutstanding_eq_false.mp ho).1 hd
    | _ => exact absurd rfl hl

/-- Settles O47: a step runs an operation or is an agent's turn. -/
theorem stepKeepsDacInv : Obligations.StepKeepsDacInv := by
  intro s t h ht
  obtain ⟨-, ⟨w, i, -, -, -, hi⟩ | ⟨-, he⟩⟩ := step_cases ht
  · exact exec_keeps_dacInv (s := { s with port := none }) h hi
  · exact engineTurn_keeps_dacInv h he

/-! ## Refusals of a single caller -/

/-- With the invariant no transition loads into a transfer in flight, so the agents' turns refuse nothing. -/
theorem engineTurn_ne_refused {s : State} (h : DacInv s.dacx) (r : Refusal) : engineTurn s ≠ .refused r := by
  rcases engineTurn_cases s with ⟨-, -, hc⟩ | ⟨-, hturn⟩
  · rw [hc]
    nofun
  · rw [hturn]
    rw [← afterEngine_dacx s] at h
    rcases otherTurn_cases (afterEngine s) with ⟨-, hseq⟩ | ⟨-, hhost⟩
    · rw [hseq]
      rcases sequencerTurn_total (afterEngine s) with ⟨t, ht⟩ | ⟨hs, hq, -⟩
      · rw [ht]
        nofun
      · obtain ⟨i, hi⟩ := exists_loading.mp hq
        rw [h.not_shifting_loading hi] at hs
        cases hs
    · rw [hhost]
      nofun

/-- With nothing outstanding the port refuses a reserved word or a WRITE before its INIT, and nothing else. -/
theorem present_refused_cases {w : CommandWord} {s : State} {r : Refusal} (ho : s.dacOutstanding = false)
    (h : present w s = .refused r) :
    (∃ why, r = .reservedWord why) ∨ r = .dacNotInitialised ∨ r = .lcdNotInitialised := by
  cases hd : decode w with
  | error why =>
    simp only [present, hd] at h
    injection h with h
    exact .inl ⟨why, h.symm⟩
  | ok i =>
    simp only [present, hd, ho, Bool.false_eq_true, if_false] at h
    rcases exec_total i s with ⟨t, ht⟩ | ⟨ho', -⟩ | ⟨-, ht⟩ | ⟨-, ht⟩
    · rw [ht] at h
      cases h
    · rw [ho] at ho'
      cases ho'
    · injection ht.symm.trans h with h
      exact .inr (.inl h.symm)
    · injection ht.symm.trans h with h
      exact .inr (.inr h.symm)

/-- Settles O54: a word at the port finds nothing outstanding, and no agent's turn refuses. -/
theorem singleCallerIsRefusedForNothingElse : Obligations.SingleCallerIsRefusedForNothingElse := by
  intro s r hinv hhost hr h
  cases hp : s.port with
  | none =>
    rw [step_of_no_port hr hp] at h
    exact absurd h (engineTurn_ne_refused hinv r)
  | some w =>
    have ho : s.dacOutstanding = false := by
      cases ho : s.dacOutstanding with
      | false => rfl
      | true => rw [hhost ho] at hp; cases hp
    rw [step_of_port hr hp] at h
    exact present_refused_cases (s := { s with port := none }) ho h

end Sys2Proof.Machine

/-!
PROOFS. Whole runs of the two DAC commands, for every finite delay of the completions (40_dac.md R102, R117), and a wait
that never ends (R116).
-/

namespace Sys2Proof.Machine

/-! ## Runs put together -/

theorem steps_succ {n : Nat} {s t : State} (h : step s = .next t) : steps (n + 1) s = steps n t := by
  rw [steps, h, andThen_next]

theorem steps_one {s t : State} (h : step s = .next t) : steps 1 s = .next t := steps_succ h

theorem steps_add {m n : Nat} {s t : State} (h : steps m s = .next t) : steps (m + n) s = steps n t := by
  induction m generalizing s with
  | zero =>
    injection h with h
    rw [Nat.zero_add, h]
  | succ m ih =>
    obtain ⟨u, hstep, hrest⟩ := andThen_eq_next.mp h
    rw [Nat.add_right_comm, steps_succ hstep, ih hrest]

/-! ## Draws that are given -/

theorem drawWcol_of_cons {e : Env} {w : Bool} {ws : List Bool} (h : e.wcol = w :: ws) :
    e.drawWcol = (w, { e with wcol := ws }) := by
  simp only [Env.drawWcol, h]

theorem drawDone_of_cons {e : Env} {d : Bool} {ds : List Bool} (h : e.done = d :: ds) :
    e.drawDone = (d, { e with done := ds }) := by
  simp only [Env.drawDone, h]

/-- The draw of what `DATA` is left with takes none of the other draws. -/
theorem drawRx_keeps (e : Env) : e.drawRx.2.wcol = e.wcol ∧ e.drawRx.2.done = e.done := by
  unfold Env.drawRx
  split <;> exact ⟨rfl, rfl⟩

/-! ## From the load of a byte to the end of its wait -/

section
variable {s : State} (hr : s.refused = false) (hp : s.port = none) (i : InspectionPoint)
include hr hp

/-- A wait in which `n` steps draw no completion is where it was after them. -/
theorem steps_waiting {n : Nat} {ds : List Bool} (hq : s.dacx.hsq = i.sending) (hx : s.dacx.xferDone = false)
    (hs : s.dacx.shifting = true) (hd : s.env.done = List.replicate n false ++ ds) :
    steps n s = .next { s with env := { s.env with done := ds } } := by
  induction n generalizing s with
  | zero =>
    rw [List.replicate_zero, List.nil_append] at hd
    rw [← hd]
    rfl
  | succ n ih =>
    have hdraw := drawDone_of_cons hd
    have hstep := step_waiting hr hp i hq hx hs (by rw [hdraw])
    rw [hdraw] at hstep
    exact (steps_succ hstep).trans (ih hr hp hq hx hs rfl)

/-- A wait whose completion comes after `n` steps: the byte in flight is sent. -/
theorem steps_transfer {n : Nat} {ds : List Bool} (hq : s.dacx.hsq = i.sending) (hx : s.dacx.xferDone = false)
    (hs : s.dacx.shifting = true) (hd : s.env.done = List.replicate n false ++ true :: ds) :
    ∃ (r : Byte) (e : Env), e.wcol = s.env.wcol ∧ e.done = ds ∧ steps (n + 1) s = .next { s with
      dacx := { s.dacx with shifting := false, xferDone := true, data := r }
      env := e
      trace := s.trace ++ [.tx s.dacx.shreg] } := by
  have hdraw : Env.drawDone { s.env with done := true :: ds } = (true, { s.env with done := ds }) :=
    drawDone_of_cons rfl
  have hstep := step_completing (s := { s with env := { s.env with done := true :: ds } }) hr hp hs (by rw [hdraw])
  rw [hdraw] at hstep
  obtain ⟨hwcol, hdone⟩ := drawRx_keeps { s.env with done := ds }
  exact ⟨_, _, hwcol, hdone, (steps_add (steps_waiting hr hp i hq hx hs hd)).trans (steps_one hstep)⟩

/-- One half of a transaction: the inspection and the load, the wait, and the arrow out of it. -/
theorem steps_half {n : Nat} {w : Bool} {ws ds : List Bool} (hq : s.dacx.hsq = i.loading)
    (hs : s.dacx.shifting = false) (hw : s.env.wcol = w :: ws)
    (hd : s.env.done = List.replicate n false ++ true :: ds) :
    ∃ (r : Byte) (e : Env), e.wcol = ws ∧ e.done = ds ∧ steps (n + 3) s = .next { s with
      dacx := { s.dacx with
        hsq := i.sent, data := r, shreg := i.byte s.dacx.frame, shifting := false, xferDone := true }
      env := e
      trace := s.trace ++ (collisionEvent w i ++ [.tx (i.byte s.dacx.frame)]) } := by
  have hdraw := drawWcol_of_cons hw
  obtain ⟨r, e, hwcol, hdone, hwait⟩ := steps_transfer (s := s.loaded i) hr hp i rfl rfl rfl
    (by rw [State.loaded, hdraw]; exact hd)
  refine ⟨r, e, by rw [hwcol, State.loaded, hdraw], hdone, ?_⟩
  refine (steps_succ (step_loading hr hp i hq hs)).trans ((steps_add hwait).trans (steps_one ?_))
  rw [← List.append_assoc, ← show s.env.drawWcol.1 = w by rw [hdraw]]
  refine step_sent ?_ ?_ i rfl rfl rfl
  exacts [hr, hp]

end

/-- A transaction from `Selected` on: both halves, and the return to `Idle` with the response. -/
theorem steps_transaction {s : State} {n₁ n₂ : Nat} {w₁ w₂ : Bool} {ws ds : List Bool} (hr : s.refused = false)
    (hp : s.port = none) (hq : s.dacx.hsq = .selected) (hs : s.dacx.shifting = false)
    (hw : s.env.wcol = w₁ :: w₂ :: ws)
    (hd : s.env.done = List.replicate n₁ false ++ true :: (List.replicate n₂ false ++ true :: ds)) :
    ∃ (r : Byte) (e : Env), e.wcol = ws ∧ e.done = ds ∧ steps (n₁ + n₂ + 7) s = .next { s with
      dacx := { s.dacx with
        hsq := .idle, csN := 1, data := r, shreg := lowByte s.dacx.frame
        shifting := false, xferDone := true, initRunning := false }
      env := e
      trace := s.trace ++ (collisionEvent w₁ .first ++ [.tx (highByte s.dacx.frame)] ++
        collisionEvent w₂ .second ++ [.tx (lowByte s.dacx.frame), .cs 1,
          .resp (if s.dacx.initRunning then .dacInit else .dacWrite) .done]) } := by
  obtain ⟨r₁, e₁, hw₁, hd₁, hfirst⟩ := steps_half hr hp .first hq hs hw hd
  obtain ⟨r₂, e₂, hw₂, hd₂, hsecond⟩ := steps_half (s := { s with
      dacx := { s.dacx with
        hsq := .msbDone, data := r₁, shreg := highByte s.dacx.frame, shifting := false, xferDone := true }
      env := e₁
      trace := s.trace ++ (collisionEvent w₁ .first ++ [.tx (highByte s.dacx.frame)]) })
    hr hp .second rfl rfl hw₁ hd₁
  refine ⟨r₂, e₂, hw₂, hd₂, ?_⟩
  rw [show n₁ + n₂ + 7 = n₁ + 3 + (n₂ + 3 + 1) by omega]
  refine (steps_add hfirst).trans ((steps_add hsecond).trans (steps_one ?_))
  refine (step_lsbDone ?_ ?_ rfl rfl).trans ?_
  · exact hr
  · exact hp
  · simp

/-! ## The words of the two commands -/

/-- A word presented by its number is that word. -/
theorem wordOfNumber_toNat (w : CommandWord) : wordOfNumber 20 w.toNat = w := by
  simp only [wordOfNumber, Nat.mod_eq_of_lt w.isLt, w.isLt, if_true, BitVec.ofNat_toNat, BitVec.setWidth_eq]

theorem decode_encode_dacWrite (v : Sample) : decode (encode (.dacWrite v)) = .ok (.dacWrite v) := by
  have hv := v.isLt
  have hword := encode_dacWrite_toNat v
  have hop : opField (encode (.dacWrite v)) = 0x2 := by
    simp only [← BitVec.toNat_inj, opField_toNat, hword, BitVec.reduceToNat]
    omega
  have habove : aboveSampleField (encode (.dacWrite v)) = 0 := by
    simp only [← BitVec.toNat_inj, aboveSampleField_toNat, hword, BitVec.reduceToNat]
    omega
  have hvalue : valueField (encode (.dacWrite v)) = v := by
    rw [← BitVec.toNat_inj, valueField_toNat, hword]
    omega
  simp [decode, hop, habove, hvalue]

theorem decode_dacWrite_number (v : Sample) :
    decode (wordOfNumber 20 (0x20000 + v.toNat)) = .ok (.dacWrite v) := by
  rw [← encode_dacWrite_toNat, wordOfNumber_toNat, decode_encode_dacWrite]

/-- A command placed by its number while nothing is outstanding runs in the next step. -/
theorem step_withFetchWord {s : State} {w : Nat} {i : Instr} (hr : s.refused = false)
    (ho : s.dacOutstanding = false) (hd : decode (wordOfNumber 20 w) = .ok i) :
    step (s.withFetchWord 20 w) = exec i { s with port := none } :=
  step_of_admitted (s := s.withFetchWord 20 w) hr rfl hd ho

/-! ## The obligations of whole runs -/

/-- Settles O24: by the invariant the wait has a transfer in flight, and chip-select is low. -/
theorem unresponsiveBusHolds : Obligations.UnresponsiveBusHolds := by
  intro s n ds hinv hr hp hq hx hd
  have hs := hinv.waiting hq hx
  obtain ⟨i, hi⟩ := exists_sending.mp hq
  exact ⟨steps_waiting hr hp i hi hx hs hd, hinv.csLow (hi ▸ i.sending_ne_idle), hs⟩

/-- Settles O22: the accept step and the transaction. -/
theorem writeSendsBothBytes : Obligations.WriteSendsBothBytes := by
  intro s v w₁ w₂ n₁ n₂ ws ds hinv hr hq hi hd hwcol hdone
  have ho := dacOutstanding_eq_false.mpr ⟨hq, hi⟩
  have haccept : step (s.withFetchWord 20 (0x20000 + v.toNat)) = .next (toSelected v { s with port := none }) :=
    (step_withFetchWord hr ho (decode_dacWrite_number v)).trans (execDacWrite_admitted ho hd)
  obtain ⟨r, e, he, hds, hrun⟩ := steps_transaction (s := toSelected v { s with port := none }) hr rfl rfl
    (hinv.not_shifting_idle hq) hwcol hdone
  refine ⟨_, (steps_succ haccept).trans hrun, ?_, ?_, rfl, hr, rfl, rfl, he, hds⟩
  · simp [hi, frameOf, highByte, lowByte]
  · simp [hi, frameOf, lowByte]

/-- Settles O23: the configuration step, the arrow of the inner transaction and the transaction. -/
theorem initSendsTheZeroFrame : Obligations.InitSendsTheZeroFrame := by
  intro s w₁ w₂ n₁ n₂ ws ds hinv hr hq hi hwcol hdone
  have ho := dacOutstanding_eq_false.mpr ⟨hq, hi⟩
  have hs := hinv.not_shifting_idle hq
  have hconfigure : step (s.withFetchWord 20 0x10000) = .next (State.configured { s with port := none }) :=
    (step_withFetchWord hr ho (i := .dacInit) (by decide)).trans (execDacInit_admitted ho)
  have hselect := step_innerTransaction (s := State.configured { s with port := none }) hr rfl hq rfl hs
  obtain ⟨r, e, he, hds, hrun⟩ := steps_transaction
    (s := toSelected 0 (State.configured { s with port := none })) hr rfl rfl hs hwcol hdone
  refine ⟨_, (steps_succ hconfigure).trans ((steps_succ hselect).trans hrun), ?_, ?_, rfl, hr, rfl, rfl, he, hds⟩
  · simp [State.configured, frameOf, highByte, lowByte]
  · simp [State.configured, hi, frameOf, lowByte]

end Sys2Proof.Machine

/-!
PROOFS. The lookups of LCDX: the glyph table (41_lcd.md R133, R134), the position mapper (R136), and the two
operations that answer with them alone (R132, R135).
-/

namespace Sys2Proof.Machine

/-! ## The glyph table -/

/-- The eleven codes of the table: the blank's, and the digits' in one range (41_lcd.md R134). -/
theorem charOfCode_isSome (c : Byte) :
    (charOfCode c).isSome = true ↔ c = 0x20 ∨ (0x30 ≤ c.toNat ∧ c.toNat ≤ 0x39) := by
  have codes : (charOfCode c).isSome = true ↔ c = 0x20 ∨ c = 0x30 ∨ c = 0x31 ∨ c = 0x32 ∨ c = 0x33 ∨ c = 0x34 ∨
      c = 0x35 ∨ c = 0x36 ∨ c = 0x37 ∨ c = 0x38 ∨ c = 0x39 := by
    simp [charOfCode, apply_ite Option.isSome]
  rw [codes]
  bv_omega

theorem glyph_eq_some_iff (c : Byte) :
    (∃ s, glyph c = some s) ↔ c = 0x20 ∨ (0x30 ≤ c.toNat ∧ c.toNat ≤ 0x39) := by
  rw [← Option.isSome_iff_exists, glyph, Option.isSome_map, charOfCode_isSome]

/-- Settles O31: each row by evaluation, the domain by the codes. -/
theorem glyphTable : Obligations.GlyphTable :=
  ⟨rfl, rfl, rfl, rfl, rfl, rfl, rfl, rfl, rfl, rfl, rfl, glyph_eq_some_iff⟩

/-- Settles O32: the two cases of the lookup. -/
theorem c2sResult : Obligations.C2sResult := fun s c =>
  ⟨rfl, fun _ h => (execLcdC2s_eq c s).trans (by rw [h]), fun h => (execLcdC2s_eq c s).trans (by rw [h])⟩

/-! ## The position mapper -/

/-- The mapper in one law: a position has a register exactly where its plane and side are those the formulas give,
for only 2 to 7 have a plane (41_lcd.md R136). -/
theorem positionToRegister_eq_some {pos : Int} {p : Fin 3} {side : NibbleSide} :
    positionToRegister pos = some (p, side) ↔
      (p.val : Int) = pos / 2 - 1 ∧ (side.code.toNat : Int) = pos % 2 := by
  have hp := p.isLt
  by_cases h : 2 ≤ pos ∧ pos ≤ 7
  · rw [positionToRegister_valid h]
    cases side <;> simp [planeIndex, nibbleSide, NibbleSide.code, Fin.ext_iff] <;> omega
  · rw [positionToRegister_invalid h]
    cases side <;> simp [NibbleSide.code] <;> omega

theorem positionToRegister_eq_none {pos : Int} : positionToRegister pos = none ↔ pos < 2 ∨ 7 < pos := by
  rw [← Option.not_isSome_iff_eq_none, positionToRegister_isSome]
  omega

/-- A position from 2 to 7 has a register. -/
theorem exists_register {pos : Int} (h : 2 ≤ pos ∧ pos ≤ 7) : ∃ p side, positionToRegister pos = some (p, side) :=
  ⟨_, _, positionToRegister_valid h⟩

/-- No two positions share a register. -/
theorem positionToRegister_injective {pos pos' : Int} {r : Fin 3 × NibbleSide}
    (h : positionToRegister pos = some r) (h' : positionToRegister pos' = some r) : pos = pos' := by
  obtain ⟨hp, hs⟩ := positionToRegister_eq_some.mp h
  obtain ⟨hp', hs'⟩ := positionToRegister_eq_some.mp h'
  omega

/-- Every register has its position, `2(p + 1)` and its side. -/
theorem positionToRegister_surjective (p : Fin 3) (side : NibbleSide) :
    positionToRegister (2 * (p.val + 1) + side.code.toNat) = some (p, side) := by
  have hside := side.code.isLt
  exact positionToRegister_eq_some.mpr (by omega)

theorem NibbleSide.eq_low_iff (side : NibbleSide) : side = .low ↔ (side.code.toNat : Int) = 0 := by
  cases side <;> decide

/-- The side whose code is `pos mod 2`, and the other one, as the two choices of `pos mod 2`. -/
theorem NibbleSide.eq_ite_of_code {side : NibbleSide} {pos : Int} (h : (side.code.toNat : Int) = pos % 2) :
    (if pos % 2 = 0 then .low else .high) = side ∧ (if pos % 2 = 0 then .high else .low) = side.other := by
  rw [← h]
  cases side <;> exact ⟨rfl, rfl⟩

/-- Settles O34: the mapper's law, and that it is one-to-one onto the registers. -/
theorem positionMapper : Obligations.PositionMapper := by
  refine ⟨fun pos h => ?_, fun pos h => positionToRegister_eq_none.mpr h, fun p side => ?_⟩
  · obtain ⟨p, side, hr⟩ := exists_register h
    exact ⟨p, side, hr, positionToRegister_eq_some.mp hr⟩
  · exact ⟨_, positionToRegister_surjective p side, fun pos' h =>
      positionToRegister_injective h (positionToRegister_surjective p side)⟩

/-- Settles O33: the two cases of the lookup. -/
theorem p2rResult : Obligations.P2rResult := by
  refine fun s pos => ⟨rfl, fun h => ?_, fun h => ?_⟩
  · obtain ⟨p, side, hr⟩ := exists_register h
    obtain ⟨hp, hs⟩ := positionToRegister_eq_some.mp hr
    exact ⟨p, side, hp, hs ▸ side.eq_low_iff, (execLcdP2r_eq pos s).trans (by rw [hr])⟩
  · exact (execLcdP2r_eq pos s).trans (by rw [positionToRegister_eq_none.mpr h])

end Sys2Proof.Machine

/-!
PROOFS. LCD.INIT and LCD.WRITE (41_lcd.md R131, R137 to R145). A memory is read here as the nibble each row holds at
each register: a valid LCD.WRITE puts the pattern's nibbles at the register of its position and leaves every other
nibble (R142), and a canonical memory is known by its nibbles. So one write replaces another at its own position
(R143), and writes at two positions commute.
-/

namespace Sys2Proof.Machine

/-! ## A memory by its nibbles -/

/-- The nibble of row `k` at a register. -/
def Memory.nibbleAt (m : Memory) (k : Fin 4) (r : Fin 3 × NibbleSide) : Nibble :=
  nibbleOf (m.lookup (cellIndex k r.1)) r.2

/-- Every index of a cell is some row's and plane's (20_memory.md R62). -/
theorem exists_cellIndex {a : Nat} (ha : a < cellCount) : ∃ k p, a = cellIndex k p := by
  simp only [cellCount] at ha
  exact ⟨⟨a / 3, by omega⟩, ⟨a % 3, by omega⟩, (Nat.div_add_mod a 3).symm⟩

/-- Canonical memories with the same nibbles are the same. -/
theorem Memory.ext_nibbles {m₁ m₂ : Memory} (h₁ : m₁.wf = true) (h₂ : m₂.wf = true)
    (h : ∀ k r, m₁.nibbleAt k r = m₂.nibbleAt k r) : m₁ = m₂ := by
  refine Memory.ext_wf m₁ m₂ h₁ h₂ fun a => ?_
  by_cases ha : a < cellCount
  · obtain ⟨k, p, rfl⟩ := exists_cellIndex ha
    rw [Memory.read_eq _ ha, Memory.read_eq _ ha, byte_ext_nibbles .low (h k (p, .low)) (h k (p, .high))]
  · simp only [Memory.read, ha, if_false]

theorem NibbleSide.ne_other (side : NibbleSide) : side ≠ side.other := by
  cases side <;> decide

theorem NibbleSide.eq_other {d side : NibbleSide} (h : d ≠ side) : d = side.other := by
  revert h
  cases d <;> cases side <;> decide

/-- The four rows of one register take the pattern's nibbles there; every other nibble stays (41_lcd.md R142). -/
theorem Memory.nibbleAt_mergeRows (p : Fin 3) (side : NibbleSide) (pat : Pattern) (m : Memory) (k : Fin 4)
    (r : Fin 3 × NibbleSide) : (Memory.mergeRows p side pat [0, 1, 2, 3] m).nibbleAt k r =
      if (p, side) = r then nib pat k else m.nibbleAt k r := by
  obtain ⟨q, d⟩ := r
  by_cases hq : p = q
  · subst hq
    have hcell := Memory.lookup_mergeRows (p := p) (side := side) (pat := pat) (m := m) (k := k)
      (l := [0, 1, 2, 3]) (by decide) (by fin_cases k <;> decide)
    obtain ⟨hnew, hold⟩ := nibbleOf_mergeNibble (m.lookup (cellIndex k p)) side (nib pat k)
    by_cases hd : side = d
    · subst hd
      simp only [Memory.nibbleAt, hcell, hnew, if_true]
    · obtain rfl := NibbleSide.eq_other (Ne.symm hd)
      simp [Memory.nibbleAt, hcell, hold, hd]
  · have hcell := Memory.lookup_mergeRows_other (p := p) (side := side) (pat := pat) (m := m)
      (l := [0, 1, 2, 3]) (a := cellIndex k q) fun k' _ h => hq (cellIndex_inj.mp h).2.symm
    simp [Memory.nibbleAt, hcell, hq]

/-! ## What LCD.WRITE makes of the cells -/

/-- The operands of LCD.WRITE name a pattern and a register, or one of them is invalid. -/
theorem operands_cases (c : Byte) (pos : Int) :
    (∃ pat p side, glyph c = some pat ∧ positionToRegister pos = some (p, side)) ∨
    (glyph c = none ∨ positionToRegister pos = none) :=
  match glyph c, positionToRegister pos with
  | some pat, some (p, side) => .inl ⟨pat, p, side, rfl, rfl⟩
  | none, _ => .inr (.inl rfl)
  | some _, none => .inr (.inr rfl)

/-- The cells after an admitted LCD.WRITE, which `execLcdWrite_eq` ties to the operation. -/
def Memory.putChar (c : Byte) (pos : Int) (m : Memory) : Memory :=
  match glyph c, positionToRegister pos with
  | some pat, some (p, side) => Memory.mergeRows p side pat [0, 1, 2, 3] m
  | _, _ => m

section
variable {c : Byte} {pos : Int} (m : Memory)

theorem Memory.putChar_valid {pat : Pattern} {p : Fin 3} {side : NibbleSide} (hc : glyph c = some pat)
    (hp : positionToRegister pos = some (p, side)) :
    m.putChar c pos = Memory.mergeRows p side pat [0, 1, 2, 3] m := by
  simp only [Memory.putChar, hc, hp]

theorem Memory.putChar_invalid (h : glyph c = none ∨ positionToRegister pos = none) : m.putChar c pos = m := by
  unfold Memory.putChar
  split
  case h_1 pat p side hc hp => simp [hc, hp] at h
  case h_2 => rfl

theorem Memory.wf_putChar (h : m.wf = true) : (m.putChar c pos).wf = true := by
  obtain ⟨pat, p, side, hc, hp⟩ | hinv := operands_cases c pos
  · rw [m.putChar_valid hc hp]
    exact Memory.wf_mergeRows p side pat _ m h
  · rwa [m.putChar_invalid hinv]

/-- Of a valid character, LCD.WRITE puts the pattern's nibbles at its position's register and leaves every other
nibble, all of them where the position has no register. -/
theorem Memory.nibbleAt_putChar {pat : Pattern} (hc : glyph c = some pat) (k : Fin 4) (r : Fin 3 × NibbleSide) :
    (m.putChar c pos).nibbleAt k r = if positionToRegister pos = some r then nib pat k else m.nibbleAt k r := by
  cases hp : positionToRegister pos with
  | none => simp [m.putChar_invalid (.inr hp)]
  | some r' => simp only [m.putChar_valid hc hp, Memory.nibbleAt_mergeRows, Option.some.injEq]

variable {m} (hm : m.wf = true)
include hm

/-- A valid write wholly replaces an earlier one at its position (41_lcd.md R143). -/
theorem Memory.putChar_putChar_same {pat : Pattern} (hc : glyph c = some pat) (c' : Byte) :
    (m.putChar c' pos).putChar c pos = m.putChar c pos := by
  refine Memory.ext_nibbles (Memory.wf_putChar _ (m.wf_putChar hm)) (m.wf_putChar hm) fun k r => ?_
  rw [Memory.nibbleAt_putChar _ hc, Memory.nibbleAt_putChar _ hc]
  split
  case isTrue => rfl
  case isFalse hr =>
    cases hc' : glyph c' with
    | none => rw [m.putChar_invalid (.inl hc')]
    | some pat' => rw [m.nibbleAt_putChar hc', if_neg hr]

/-- The same write again changes no cell. -/
theorem Memory.putChar_idem : (m.putChar c pos).putChar c pos = m.putChar c pos := by
  cases hc : glyph c with
  | none => rw [Memory.putChar_invalid _ (.inl hc)]
  | some pat => exact Memory.putChar_putChar_same hm hc c

/-- Valid writes at two positions write two registers, so they commute (41_lcd.md R142). -/
theorem Memory.putChar_comm {c₁ c₂ : Byte} {pos₁ pos₂ : Int} (hne : pos₁ ≠ pos₂) {pat₁ pat₂ : Pattern}
    (h₁ : glyph c₁ = some pat₁) (h₂ : glyph c₂ = some pat₂) :
    (m.putChar c₁ pos₁).putChar c₂ pos₂ = (m.putChar c₂ pos₂).putChar c₁ pos₁ := by
  refine Memory.ext_nibbles (Memory.wf_putChar _ (m.wf_putChar hm)) (Memory.wf_putChar _ (m.wf_putChar hm))
    fun k r => ?_
  simp only [Memory.nibbleAt_putChar _ h₁, Memory.nibbleAt_putChar _ h₂]
  by_cases hr₁ : positionToRegister pos₁ = some r
  · have hr₂ : positionToRegister pos₂ ≠ some r := fun hr₂ => hne (positionToRegister_injective hr₁ hr₂)
    simp only [hr₁, hr₂, if_true, if_false]
  · simp only [hr₁, if_false]

end

/-! ## The operation in one equation -/

/-- Once LCD.INIT has been given, LCD.WRITE answers its cells, its reports (none where both operands are valid) and
its response. -/
theorem execLcdWrite_eq {c : Byte} {pos : Int} {s : State} (hi : s.lcdx.lcdInited = true) :
    execLcdWrite c pos s = .next { s with
      lcdx := { s.lcdx with cells := s.lcdx.cells.putChar c pos }
      trace := s.trace ++ ((invalidCodes (glyph c).isSome (positionToRegister pos).isSome).map Event.err ++
        [.resp .lcdWrite .done]) } := by
  obtain ⟨pat, p, side, hc, hp⟩ | hinv := operands_cases c pos
  · rw [execLcdWrite_valid hi hc hp, Memory.putChar_valid _ hc hp, hc, hp]
    rfl
  · rw [execLcdWrite_invalid hi hinv, Memory.putChar_invalid _ hinv, List.append_assoc]

/-- Settles O40: on the cells a write is idempotent and a valid one replaces an earlier one, and no more of LCDX and
nothing of DACX is written. -/
theorem writingTwiceIsWritingOnce : Obligations.WritingTwiceIsWritingOnce := by
  intro s c c' pos hinv hi
  refine ⟨_, _, execLcdWrite_eq hi, execLcdWrite_eq hi, ?_, rfl, ?_⟩
  · simp only [Memory.putChar_idem hinv.wf]
  · rintro ⟨pat, hc⟩
    refine ⟨_, _, execLcdWrite_eq hi, execLcdWrite_eq hi, ?_⟩
    simp only [Memory.putChar_putChar_same hinv.wf hc]

/-- Settles O41: the two writes commute on the cells, and no more of LCDX is written. -/
theorem writesToDifferentPositionsCommute : Obligations.WritesToDifferentPositionsCommute := by
  rintro s c₁ c₂ pos₁ pos₂ hinv hi hne - - ⟨pat₁, h₁⟩ ⟨pat₂, h₂⟩
  refine ⟨_, _, _, _, execLcdWrite_eq hi, execLcdWrite_eq hi, execLcdWrite_eq hi, execLcdWrite_eq hi, ?_⟩
  simp only [Memory.putChar_comm hinv.wf hne h₁ h₂]

/-! ## LCD.INIT -/

/-- Settles O30: the cells LCD.INIT writes are the twelve, all zero. -/
theorem lcdInitEffect : Obligations.LcdInitEffect := by
  refine ⟨rfl, fun s => ?_⟩
  obtain ⟨m, hm, -, hread⟩ := execLcdInit_spec s
  refine ⟨m, hm, fun k p => ?_, fun a ha => ?_⟩
  · exact (hread _).trans (if_pos (cellIndex_lt k p))
  · exact (hread a).trans (if_neg (Nat.not_lt.mpr ha))

/-! ## The read-modify-write and LCD.WRITE -/

/-- Settles O35: the merged byte replaces one nibble of its cell. -/
theorem rmwReplacesOneNibble : Obligations.RmwReplacesOneNibble := by
  intro s k p n side
  have hlt := cellIndex_lt k p
  obtain ⟨hnew, hold⟩ := nibbleOf_mergeNibble (s.lcdx.cells.lookup (cellIndex k p)) side n
  exact ⟨_, _, _, rmw_eq k p side n s, Memory.read_eq _ hlt, Memory.read_write_same _ _ hlt,
    by rintro rfl; rfl, by rintro rfl; rfl, hnew, hold, fun a ha => Memory.read_write_other _ _ ha⟩

/-- Settles O36: the pattern's nibble at the position's register, every other nibble and cell as before. -/
theorem writeShowsTheCharacter : Obligations.WriteShowsTheCharacter := by
  intro s c pos pat hi hc hpos
  obtain ⟨p, side, hr⟩ := exists_register hpos
  obtain ⟨hp, hs⟩ := positionToRegister_eq_some.mp hr
  have hplane : (pos / 2 - 1).toNat = p.val := by omega
  obtain ⟨hside, hother⟩ := NibbleSide.eq_ite_of_code hs
  rw [hplane, hside, hother]
  refine ⟨_, execLcdWrite_valid hi hc hr, fun k => ?_, fun a ha => ?_⟩
  · have hlt := cellIndex_lt k p
    have hnib := Memory.nibbleAt_mergeRows p side pat s.lcdx.cells k
    refine ⟨_, _, Memory.read_eq _ hlt, Memory.read_eq _ hlt, ?_, ?_⟩
    · exact (hnib (p, side)).trans (if_pos rfl)
    · exact (hnib (p, side.other)).trans (if_neg fun h => side.ne_other (Prod.mk.inj h).2)
  · simp only [Memory.read, Memory.lookup_mergeRows_other fun k _ => ha k]

theorem bothInvalidCodes_ne_nil (r : BothInvalidReport) : bothInvalidCodes r ≠ [] := by
  cases r <;> nofun

/-- Settles O37: with an operand invalid LCD.WRITE is its reports and its response. -/
theorem invalidWriteOnlyReports : Obligations.InvalidWriteOnlyReports := by
  intro s c pos hi
  refine ⟨fun hc hpos => ?_, fun pat hc hpos => ?_, fun hc hpos => ?_⟩
  · have hp := (positionToRegister_isSome pos).mpr hpos
    refine (execLcdWrite_invalid hi (.inl hc)).trans ?_
    rw [hc, hp, List.append_assoc]
    rfl
  · have hp := positionToRegister_eq_none.mpr hpos
    refine (execLcdWrite_invalid hi (.inr hp)).trans ?_
    rw [hc, hp, List.append_assoc]
    rfl
  · have hp := positionToRegister_eq_none.mpr hpos
    refine ⟨bothInvalidCodes Config.bothInvalidReport, ?_, bothInvalidCodes_ne_nil _, ?_⟩
    · cases Config.bothInvalidReport <;> rfl
    · refine (execLcdWrite_invalid hi (.inl hc)).trans ?_
      rw [hc, hp]
      rfl

/-- Settles O38: the lookups and LCD.INIT are total, and LCD.WRITE is refused before LCD.INIT alone. -/
theorem lcdAdmission : Obligations.LcdAdmission := fun s c pos =>
  ⟨⟨_, execLcdInit_eq s⟩, ⟨_, execLcdC2s_eq c s⟩, ⟨_, execLcdP2r_eq pos s⟩, execLcdWrite_refused,
    fun hi => ⟨_, execLcdWrite_eq hi⟩⟩

end Sys2Proof.Machine

/-!
PROOFS. The bus protocol is kept by every step (70_reset_and_hazards.md R194, 20_memory.md R72): each step's new
events move the bus from where the sequencer stood to where it stands after the step.
-/

namespace Sys2Proof.Machine

/-! ## The protocol over the events a step appends -/

/-- A trace's phase is its events' moves one after the other, from outside a transaction. -/
theorem busPhase_eq_foldlM (trace : List Event) : busPhase trace = trace.foldlM busMove .outside :=
  (List.foldlM_eq_foldl ..).symm

/-- `BusInv` carries over to a state whose new events lead from the old phase to the new one. -/
theorem BusInv.append {s t : State} (h : BusInv s) (es : List Event) (htrace : t.trace = s.trace ++ es)
    (hmoves : es.foldlM busMove s.dacx.busPhase = some t.dacx.busPhase) : BusInv t := by
  rw [BusInv, busPhase_eq_foldlM] at h ⊢
  rw [htrace, List.foldlM_append, h]
  exact hmoves

/-- `BusInv` speaks of DACX and the trace alone. -/
theorem BusInv.congr {s t : State} (h : BusInv s) (htrace : t.trace = s.trace) (hdacx : t.dacx = s.dacx) :
    BusInv t := by
  rw [BusInv, htrace, hdacx]
  exact h

/-- An event of LCDX does not move the bus. -/
theorem busMove_lcd (ph : BusPhase) {e : Event} (he : e.isLcd = true) : busMove ph e = some ph := by
  cases e with
  | cs b => cases he
  | tx b => cases he
  | diag code i => cases he
  | err code => cases ph <;> rfl
  | resp op r => cases ph <;> rfl

theorem foldlM_busMove_lcd (ph : BusPhase) {es : List Event} (hes : ∀ e ∈ es, e.isLcd = true) :
    es.foldlM busMove ph = some ph := by
  induction es with
  | nil => rfl
  | cons e rest ih =>
    obtain ⟨he, hrest⟩ := List.forall_mem_cons.mp hes
    rw [List.foldlM_cons, busMove_lcd ph he]
    exact ih hrest

/-- An inspection's diagnostic does not move the bus. -/
theorem foldlM_busMove_inspection (ph : BusPhase) (w : Bool) (i : InspectionPoint) :
    (collisionEvent w i).foldlM busMove ph = some ph := by
  cases w <;> cases ph <;> rfl

/-- A byte may be sent within a transaction as its first or its second. -/
theorem busMove_tx {sent : List Byte} (b : Byte) (hlt : sent.length < 2) :
    busMove (.inside sent) (.tx b) = some (.inside (sent ++ [b])) :=
  if_pos hlt

/-! ## Where the sequencer says the bus stands, in each half of a transaction -/

/-- The bytes of the frame sent before an inspection point. -/
@[simp] def InspectionPoint.sentBefore : InspectionPoint → Frame → List Byte
  | .first, _ => []
  | .second, f => [highByte f]

theorem InspectionPoint.length_sentBefore_lt (i : InspectionPoint) (f : Frame) : (i.sentBefore f).length < 2 := by
  cases i <;> simp

section
variable {d : Dacx}

theorem busPhase_idle (hq : d.hsq = .idle) : d.busPhase = .outside := by
  simp only [Dacx.busPhase, hq]

theorem busPhase_loading (i : InspectionPoint) (hq : d.hsq = i.loading) :
    d.busPhase = .inside (i.sentBefore d.frame) := by
  cases i <;> simp [Dacx.busPhase, hq]

theorem busPhase_flagDown (i : InspectionPoint) (hq : d.hsq = i.sending) (hx : d.xferDone = false) :
    d.busPhase = .inside (i.sentBefore d.frame) := by
  cases i <;> simp [Dacx.busPhase, hq, hx]

theorem busPhase_flagUp (i : InspectionPoint) (hq : d.hsq = i.sending) (hx : d.xferDone = true) :
    d.busPhase = .inside (i.sentBefore d.frame ++ [i.byte d.frame]) := by
  cases i <;> simp [Dacx.busPhase, hq, hx]

theorem busPhase_sent (i : InspectionPoint) (hq : d.hsq = i.sent) :
    d.busPhase = .inside (i.sentBefore d.frame ++ [i.byte d.frame]) := by
  cases i <;> simp [Dacx.busPhase, hq]

/-- The byte in flight is the one of its half (40_dac.md R112). -/
theorem DacInv.shreg_sending (h : DacInv d) {i : InspectionPoint} (hq : d.hsq = i.sending) :
    d.shreg = i.byte d.frame := by
  cases i with
  | first => exact h.upper (.inl hq)
  | second => exact h.lower (.inl hq)

end

/-! ## Each update of DACX keeps the protocol -/

section
variable {s : State} (h : BusInv s)
include h

/-- DAC.INIT's configuration step drives chip-select high where it is high or was never driven. -/
theorem busInv_configured (hq : s.dacx.hsq = .idle) : BusInv s.configured := by
  refine h.append [.cs 1] rfl ?_
  rw [busPhase_idle hq, busPhase_idle (d := s.configured.dacx) hq]
  rfl

/-- The arrow `Idle → Selected` opens a transaction. -/
theorem busInv_toSelected (v : Sample) (hq : s.dacx.hsq = .idle) : BusInv (toSelected v s) := by
  refine h.append [.cs 0] rfl ?_
  rw [busPhase_idle hq, busPhase_loading .first rfl]
  rfl

/-- The inspection and the load of either half send nothing yet. -/
theorem busInv_loaded (i : InspectionPoint) (hq : s.dacx.hsq = i.loading) : BusInv (s.loaded i) := by
  refine h.append (collisionEvent s.env.drawWcol.1 i) rfl ?_
  rw [busPhase_loading i hq, busPhase_flagDown (d := (s.loaded i).dacx) i rfl rfl]
  exact foldlM_busMove_inspection ..

/-- A completion sends the byte of the half in which it comes. -/
theorem busInv_complete (hd : DacInv s.dacx) (hs : s.dacx.shifting = true) : BusInv s.complete := by
  obtain ⟨hwait, hx⟩ := hd.shifting hs
  obtain ⟨i, hq⟩ := exists_sending.mp hwait
  refine h.append [.tx s.dacx.shreg] rfl ?_
  rw [busPhase_flagDown i hq hx, busPhase_flagUp (d := s.complete.dacx) i hq rfl, hd.shreg_sending hq,
    List.foldlM_cons, busMove_tx _ (i.length_sentBefore_lt _)]
  rfl

/-- The arrow out of either wait emits nothing. -/
theorem busInv_sent (i : InspectionPoint) (hq : s.dacx.hsq = i.sending) (hx : s.dacx.xferDone = true) :
    BusInv (s.moveTo i.sent) := by
  refine h.append [] (List.append_nil _).symm ?_
  rw [busPhase_flagUp i hq hx, busPhase_sent (d := (s.moveTo i.sent).dacx) i rfl]
  rfl

/-- The arrow `LSBDone → Idle` closes the transaction after its two bytes. -/
theorem busInv_toIdle (hq : s.dacx.hsq = .lsbDone) : BusInv (toIdle s) := by
  rw [toIdle_eq]
  refine h.append _ rfl ?_
  rw [busPhase_sent .second hq, busPhase_idle rfl]
  rfl

end

/-! ## Each agent keeps the protocol -/

theorem sequencerTurn_keeps_busInv {s t : State} (h : BusInv s) (ht : sequencerTurn s = .next t) : BusInv t := by
  rcases sequencerTurn_cases ht with ⟨hq, -, rfl⟩ | ⟨-, -, rfl⟩ | ⟨hq, hload⟩ | ⟨hq, hx, rfl⟩ | ⟨hq, hload⟩ |
    ⟨hq, hx, rfl⟩ | ⟨hq, rfl⟩ | ⟨-, -, rfl⟩
  · exact busInv_toSelected h 0 hq
  · exact h
  · obtain ⟨-, rfl⟩ := toSendingMsb_eq_next.mp hload
    exact busInv_loaded h .first hq
  · exact busInv_sent h .first hq hx
  · obtain ⟨-, rfl⟩ := toSendingLsb_eq_next.mp hload
    exact busInv_loaded h .second hq
  · exact busInv_sent h .second hq hx
  · exact busInv_toIdle h hq
  · exact h

theorem engineTurn_keeps_busInv {s t : State} (hd : DacInv s.dacx) (h : BusInv s) (ht : engineTurn s = .next t) :
    BusInv t := by
  rcases engineTurn_cases s with ⟨hs, -, hc⟩ | ⟨-, hturn⟩
  · injection hc.symm.trans ht with ht
    subst ht
    exact busInv_complete (s := { s with env := s.env.drawDone.2 }) h hd hs
  · rw [hturn] at ht
    have h' : BusInv (afterEngine s) := h.congr (afterEngine_trace s) (afterEngine_dacx s)
    rcases otherTurn_cases (afterEngine s) with ⟨-, hseq⟩ | ⟨-, hhost⟩
    · exact sequencerTurn_keeps_busInv h' (hseq.symm.trans ht)
    · injection hhost.symm.trans ht with ht
      subst ht
      exact h'.congr (hostTurn_trace _) (hostTurn_dacx _)

theorem exec_keeps_busInv {i : Instr} {s t : State} (h : BusInv s) (ht : exec i s = .next t) : BusInv t := by
  by_cases hl : isLcd i = true
  · obtain ⟨es, hes, hrun⟩ := exec_lcd_congr hl ht
    injection ht.symm.trans (hrun s rfl) with ht
    rw [ht]
    exact h.append es rfl (foldlM_busMove_lcd _ hes)
  · cases i with
    | dacInit =>
      obtain ⟨ho, rfl⟩ := execDacInit_eq_next.mp ht
      exact busInv_configured h (dacOutstanding_eq_false.mp ho).1
    | dacWrite v =>
      obtain ⟨ho, -, rfl⟩ := execDacWrite_eq_next.mp ht
      exact busInv_toSelected h v (dacOutstanding_eq_false.mp ho).1
    | _ => exact absurd rfl hl

/-- Settles O51: a step runs an operation or is an agent's turn. -/
theorem stepKeepsBusProtocol : Obligations.StepKeepsBusProtocol := by
  intro s t hd h ht
  obtain ⟨-, ⟨w, i, -, -, -, hi⟩ | ⟨-, he⟩⟩ := step_cases ht
  · exact exec_keeps_busInv (s := { s with port := none }) h hi
  · exact engineTurn_keeps_busInv hd h he

end Sys2Proof.Machine

/-!
PROOFS. The host's side of a step: one command at a time (70_reset_and_hazards.md R190), the idle block (R183, R197),
use before INIT (R186), and the reset values (R181 to R183).
-/

namespace Sys2Proof.Machine

/-! ## What reaches the command port -/

/-- No operation presents a word or takes one from the host's list. -/
theorem exec_keeps_host {i : Instr} {s t : State} (h : exec i s = .next t) :
    t.port = s.port ∧ t.script = s.script := by
  by_cases hl : isLcd i = true
  · obtain ⟨es, -, hrun⟩ := exec_lcd_congr hl h
    injection h.symm.trans (hrun s rfl) with ht
    rw [ht]
    exact ⟨rfl, rfl⟩
  · cases i with
    | dacInit =>
      obtain ⟨-, rfl⟩ := execDacInit_eq_next.mp h
      exact ⟨rfl, rfl⟩
    | dacWrite v =>
      obtain ⟨-, -, rfl⟩ := execDacWrite_eq_next.mp h
      exact ⟨rfl, rfl⟩
    | _ => exact absurd rfl hl

/-- Nor does the sequencer. -/
theorem sequencerTurn_keeps_host {s t : State} (h : sequencerTurn s = .next t) :
    t.port = s.port ∧ t.script = s.script := by
  rcases sequencerTurn_cases h with ⟨-, -, rfl⟩ | ⟨-, -, rfl⟩ | ⟨-, hload⟩ | ⟨-, -, rfl⟩ | ⟨-, hload⟩ |
    ⟨-, -, rfl⟩ | ⟨-, rfl⟩ | ⟨-, -, rfl⟩
  · exact ⟨rfl, rfl⟩
  · exact ⟨rfl, rfl⟩
  · obtain ⟨-, rfl⟩ := toSendingMsb_eq_next.mp hload
    exact ⟨rfl, rfl⟩
  · exact ⟨rfl, rfl⟩
  · obtain ⟨-, rfl⟩ := toSendingLsb_eq_next.mp hload
    exact ⟨rfl, rfl⟩
  · exact ⟨rfl, rfl⟩
  · exact ⟨rfl, rfl⟩
  · exact ⟨rfl, rfl⟩

/-- An agent's turn presents nothing, or nothing is outstanding and it is the host's, which leaves DACX. -/
theorem engineTurn_host_cases {s t : State} (h : engineTurn s = .next t) :
    (t.port = s.port ∧ t.script = s.script) ∨ (s.dacOutstanding = false ∧ t.dacx = s.dacx) := by
  rcases engineTurn_cases s with ⟨-, -, hc⟩ | ⟨-, hturn⟩
  · injection hc.symm.trans h with ht
    subst ht
    exact .inl ⟨rfl, rfl⟩
  · rw [hturn] at h
    rw [← afterEngine_port s, ← afterEngine_script s, ← afterEngine_dacOutstanding s, ← afterEngine_dacx s]
    rcases otherTurn_cases (afterEngine s) with ⟨-, hseq⟩ | ⟨ho, hhost⟩
    · exact .inl (sequencerTurn_keeps_host (hseq.symm.trans h))
    · injection hhost.symm.trans h with ht
      subst ht
      exact .inr ⟨ho, hostTurn_dacx _⟩

/-! ## One command at a time -/

/-- While an operation is outstanding a word that decodes is refused at the port. -/
theorem step_of_second_command {s : State} {w : CommandWord} {i : Instr} (hr : s.refused = false)
    (hp : s.port = some w) (hd : decode w = .ok i) (ho : s.dacOutstanding = true) :
    step s = .refused .commandOutstanding := by
  have ho' : State.dacOutstanding { s with port := none } = true := ho
  simp only [step_of_port hr hp, present, hd, ho', if_true]

/-- Settles O8: with the port empty the step is a turn, and not the host's; with a word there the port refuses. -/
theorem secondCommandRefused : Obligations.SecondCommandRefused := by
  intro s hr ho
  refine ⟨fun hp t ht => ?_, fun w i hp hd => step_of_second_command hr hp hd ho⟩
  rw [step_of_no_port hr hp] at ht
  rcases engineTurn_host_cases ht with ⟨hport, hscript⟩ | ⟨ho', -⟩
  · exact ⟨hport.trans hp, hscript⟩
  · rw [ho] at ho'
    cases ho'

/-- Settles O53: the port is emptied by a command that runs, and filled by the host's turn alone, after which
nothing is outstanding. So a step sets `HostInv` up even where it did not hold. -/
theorem stepKeepsHostInv : Obligations.StepKeepsHostInv := by
  rintro s t - ht ho
  obtain ⟨-, ⟨w, i, -, -, -, hi⟩ | ⟨hp, he⟩⟩ := step_cases ht
  · exact (exec_keeps_host hi).1
  · rcases engineTurn_host_cases he with ⟨hport, -⟩ | ⟨ho', hdacx⟩
    · exact hport.trans hp
    · rw [dacOutstanding_congr hdacx, ho'] at ho
      cases ho

/-! ## The idle block -/

/-- With nothing outstanding, in flight or at the port, the step is the host's turn. -/
theorem step_eq_hostTurn {s : State} (hr : s.refused = false) (hp : s.port = none) (ho : s.dacOutstanding = false)
    (hs : s.dacx.shifting = false) : step s = .next (hostTurn s) := by
  simp only [step_of_no_port hr hp, engineTurn, otherTurn, hs, ho, Bool.false_eq_true, if_false]

/-- Settles O10: the host's turn, by whether a word is left. -/
theorem idleBlockWaitsForTheHost : Obligations.IdleBlockWaitsForTheHost := by
  intro s hr hp ho hs
  rw [step_eq_hostTurn hr hp ho hs]
  exact ⟨fun hnil => by simp only [hostTurn, hnil], fun w rest hcons => by simp only [hostTurn, hcons]⟩

/-! ## Use before INIT -/

/-- Settles O39: the port admits the word, and the operation refuses it. -/
theorem useBeforeInitRefused : Obligations.UseBeforeInitRefused := by
  intro s w hr ho hp
  refine ⟨fun v hd hi => ?_, fun c pos hd hi => ?_⟩
  · rw [step_of_admitted hr hp hd ho]
    exact execDacWrite_notInitialised ho hi
  · rw [step_of_admitted hr hp hd ho]
    exact execLcdWrite_refused hi

/-! ## The reset values -/

/-- Settles O45: the cells by what they read as, the registers by what reset puts there. -/
theorem resetValues : Obligations.ResetValues := by
  refine ⟨rfl, rfl, rfl, rfl, rfl, fun a ha => ?_, fun a ha => Memory.read_above _ ha, rfl, rfl⟩
  exact (Memory.read_eq _ ha).trans (congrArg some (Memory.lookup_reset a))

end Sys2Proof.Machine

/-!
PROOFS. A command and its word (30_encoding.md): the decoder and the encoder both say of a word the same thing about
its fields, which makes them inverse to each other; and what a command's word does at the command port.
-/

namespace Sys2Proof

/-! ## Words by their fields -/

section
variable {w : CommandWord} {op : BitVec 4}

/-- Format N: a word is its opcode and its argument. -/
theorem toNat_eq_iff_fields_N {arg : BitVec 16} :
    w.toNat = 65536 * op.toNat + arg.toNat ↔ opField w = op ∧ argField w = arg := by
  have harg := arg.isLt
  simp only [← BitVec.toNat_inj, opField_toNat, argField_toNat]
  omega

/-- Format V: a word is its opcode, the four bits above the sample and the sample. -/
theorem toNat_eq_iff_fields_V {above : BitVec 4} {v : Sample} :
    w.toNat = 65536 * op.toNat + 4096 * above.toNat + v.toNat ↔
      opField w = op ∧ aboveSampleField w = above ∧ valueField w = v := by
  have habove := above.isLt
  have hv := v.isLt
  simp only [← BitVec.toNat_inj, opField_toNat, aboveSampleField_toNat, valueField_toNat]
  omega

/-- Formats C, P and CP: a word is its opcode, its character and its position. -/
theorem toNat_eq_iff_fields_CP {c b : Byte} :
    w.toNat = 65536 * op.toNat + 256 * c.toNat + b.toNat ↔
      opField w = op ∧ charField w = c ∧ posField w = b := by
  have hc := c.isLt
  have hb := b.isLt
  simp only [← BitVec.toNat_inj, opField_toNat, charField_toNat, posField_toNat]
  omega

end

/-- A position field stands for the one encodable position whose field it is. -/
theorem posOfField_eq_iff {b : Byte} {pos : Int} : posOfField b = pos ↔ posEncodable pos ∧ b = fieldOfPos pos := by
  constructor
  · rintro rfl
    exact ⟨posEncodable_posOfField b, (fieldOfPos_posOfField b).symm⟩
  · rintro ⟨h, rfl⟩
    exact posOfField_fieldOfPos h

/-! ## What a command says of its word -/

/-- The row of 30_encoding.md R87 of a command, with its operands, as a condition on the word's fields. -/
def Instr.Format (w : CommandWord) : Instr → Prop
  | .dacInit => opField w = 0x1 ∧ argField w = 0
  | .dacWrite value => opField w = 0x2 ∧ aboveSampleField w = 0 ∧ valueField w = value
  | .lcdInit => opField w = 0x4 ∧ argField w = 0
  | .lcdC2s c => opField w = 0x5 ∧ charField w = c ∧ posField w = 0
  | .lcdP2r pos => opField w = 0x6 ∧ charField w = 0 ∧ posOfField (posField w) = pos
  | .lcdWrite c pos => opField w = 0x7 ∧ charField w = c ∧ posOfField (posField w) = pos

/-- The decoder reads a command from the words of its format. -/
theorem decode_eq_ok_iff_format {w : CommandWord} {i : Instr} : decode w = .ok i ↔ i.Format w := by
  constructor
  · intro h
    unfold decode at h
    split_ifs at h with h₁ ha₁ h₂ ha₂ h₄ ha₄ h₅ ha₅ h₆ ha₆ h₇
    all_goals cases h
    · exact ⟨h₁, ha₁⟩
    · exact ⟨h₂, ha₂, rfl⟩
    · exact ⟨h₄, ha₄⟩
    · exact ⟨h₅, rfl, ha₅⟩
    · exact ⟨h₆, ha₆, rfl⟩
    · exact ⟨h₇, rfl, rfl⟩
  · intro h
    cases i with
    | dacInit =>
      obtain ⟨hop, harg⟩ := h
      simp [decode, hop, harg]
    | dacWrite value =>
      obtain ⟨hop, habove, rfl⟩ := h
      simp [decode, hop, habove]
    | lcdInit =>
      obtain ⟨hop, harg⟩ := h
      simp [decode, hop, harg]
    | lcdC2s c =>
      obtain ⟨hop, rfl, hbelow⟩ := h
      simp [decode, hop, hbelow]
    | lcdP2r pos =>
      obtain ⟨hop, habove, rfl⟩ := h
      simp [decode, hop, habove]
    | lcdWrite c pos =>
      obtain ⟨hop, rfl, rfl⟩ := h
      simp [decode, hop]

/-- A well-formed command is encoded by the one word of its format. -/
theorem encode_eq_iff_format {w : CommandWord} {i : Instr} :
    (encode i = w ∧ i.WellFormed = true) ↔ i.Format w := by
  rw [← BitVec.toNat_inj, eq_comm (b := w.toNat)]
  cases i with
  | dacInit => exact (and_iff_left rfl).trans (toNat_eq_iff_fields_N (op := 0x1) (arg := 0))
  | dacWrite value =>
    rw [encode_dacWrite_toNat]
    exact (and_iff_left rfl).trans (toNat_eq_iff_fields_V (op := 0x2) (above := 0))
  | lcdInit => exact (and_iff_left rfl).trans (toNat_eq_iff_fields_N (op := 0x4) (arg := 0))
  | lcdC2s c =>
    rw [encode_lcdC2s_toNat]
    exact (and_iff_left rfl).trans (toNat_eq_iff_fields_CP (op := 0x5) (b := 0))
  | lcdP2r pos =>
    have hword := toNat_eq_iff_fields_CP (w := w) (op := 0x6) (c := 0) (b := fieldOfPos pos)
    simp only [Instr.Format, Instr.WellFormed, posOfField_eq_iff, encode_lcdP2r_toNat, decide_eq_true_eq]
    tauto
  | lcdWrite c pos =>
    have hword := toNat_eq_iff_fields_CP (w := w) (op := 0x7) (c := c) (b := fieldOfPos pos)
    simp only [Instr.Format, Instr.WellFormed, posOfField_eq_iff, encode_lcdWrite_toNat, decide_eq_true_eq]
    tauto

/-! ## The round trip -/

/-- The decoder inverts the encoder on the well-formed commands, and nothing else decodes. -/
theorem decode_eq_ok_iff {w : CommandWord} {i : Instr} :
    decode w = .ok i ↔ encode i = w ∧ i.WellFormed = true :=
  decode_eq_ok_iff_format.trans encode_eq_iff_format.symm

/-- Settles O2: the inverse, at the command's own word. -/
theorem wellFormedCommandsRoundTrip : Obligations.WellFormedCommandsRoundTrip :=
  fun _ hwf => decode_eq_ok_iff.mpr ⟨rfl, hwf⟩

/-- Settles O3: the inverse, at the decoded command. -/
theorem decodedWordsEncodeBack : Obligations.DecodedWordsEncodeBack :=
  fun _ _ hd => decode_eq_ok_iff.mp hd

/-- Settles O1: each word is evaluated. -/
theorem sampleWordsDecode : Obligations.SampleWordsDecode :=
  ⟨rfl, rfl, rfl, rfl, rfl, rfl, rfl, rfl, rfl, rfl, rfl, rfl⟩

end Sys2Proof

namespace Sys2Proof.Machine

/-! ## A command at the port -/

/-- Settles O5: the port admits the word. -/
theorem stepRunsTheDecodedCommand : Obligations.StepRunsTheDecodedCommand :=
  fun _ _ _ hr ho hp hd => step_of_admitted hr hp hd ho

/-- Settles O6: the word placed by its number is the command's own, which decodes to it. -/
theorem placedCommandRunsNext : Obligations.PlacedCommandRunsNext := by
  intro s i hr ho hwf
  have hd : decode (wordOfNumber 20 (encode i).toNat) = .ok i := by
    rw [wordOfNumber_toNat]
    exact wellFormedCommandsRoundTrip i hwf
  exact ⟨step_withFetchWord hr ho hd, by rw [decodeTableWord, hd]⟩

end Sys2Proof.Machine

/-!
PROOFS. The frame of the LCD operations (41_lcd.md), and the invariants at reset (70_reset_and_hazards.md R181 to R183).
-/

namespace Sys2Proof.Machine

/-! ## The frame of the LCD operations -/

/-- Settles O42: an LCD operation writes LCDX and the trace alone, the lookups the trace alone, and LCD.WRITE of LCDX
the cells of its position's register, or none where an operand is invalid. -/
theorem lcdOperationsFrame : Obligations.LcdOperationsFrame := by
  refine ⟨fun i s t hl h => ?_, fun s t c h => ?_, fun s t pos h => ?_, fun s t c pos h => ?_⟩
  · obtain ⟨es, -, hrun⟩ := exec_lcd_congr hl h
    injection h.symm.trans (hrun s rfl) with ht
    rw [ht]
    exact ⟨rfl, rfl, rfl, rfl, rfl⟩
  · injection (execLcdC2s_eq c s).symm.trans h with ht
    rw [← ht]
  · injection (execLcdP2r_eq pos s).symm.trans h with ht
    rw [← ht]
  · obtain ⟨hi, m, codes, rfl, -, hread⟩ := execLcdWrite_inv h
    refine ⟨rfl, rfl, fun p side hp a ha => hread a fun p' side' hp' => ?_, fun hinvalid => ?_⟩
    · cases hp.symm.trans hp'
      exact ha
    · injection (execLcdWrite_invalid hi hinvalid.symm).symm.trans h with ht
      exact (congrArg (·.lcdx.cells) ht).symm

/-! ## The invariants at reset -/

/-- An idle DACX to which no DAC.INIT was given, with no transfer in flight, has the invariant: nothing it speaks of
has begun. -/
theorem dacInv_of_not_inited {d : Dacx} (hq : d.hsq = .idle) (hi : d.initRunning = false)
    (hd : d.dacInited = false) (hs : d.shifting = false) : DacInv d := by
  constructor <;> simp [hq, hi, hd, hs]

/-- Settles O46: nothing has begun at reset. -/
theorem dacInvAtReset : Obligations.DacInvAtReset := dacInv_of_not_inited rfl rfl rfl rfl

/-- Settles O48: the twelve cells are listed, and no LCD.INIT was given. -/
theorem lcdInvAtReset : Obligations.LcdInvAtReset := ⟨Memory.wf_reset, nofun⟩

/-- Settles O50: the empty trace is outside a transaction, and the sequencer is idle. -/
theorem busProtocolAtReset : Obligations.BusProtocolAtReset := rfl

/-- Settles O52: the port is empty at reset. -/
theorem hostInvAtReset : Obligations.HostInvAtReset := fun _ => rfl

end Sys2Proof.Machine
